-- ==== Sys2Proof/Word.lean ====
section
/-! DEFINITION. The word types of the block's two ports (30_encoding.md R40, R43). -/

namespace Sys2Proof

/-- A command word `CMD`: 34 bits, `op` in bits 33:32 and `x` in bits 31:0 (R40). -/
abbrev CmdWord := BitVec 34

/-- A response word `RSP`: 34 bits, `status` in bits 33:32 and `result` in bits 31:0 (R43). -/
abbrev RspWord := BitVec 34

end Sys2Proof
end

