-- ==== Sys2Proof/Config.lean ====
section
/-! DEFINITION. What is fixed for one block (the type of the parameters of 00_scope.md R4; their values
are in Machine/Params.lean) and the free values: constants without a body for everything the spec calls
unspecified (92_eei_decisions.md D26: "any value: a free input under no law"). -/

namespace Sys2Proof

/-- The parameters of one operation (00_scope.md R4): working width `W`, number of scan comparisons
`S = log2(W)`, fractional bits and iterations `F`, output width `O`. -/
structure Params where
  w : Nat
  s : Nat
  f : Nat
  o : Nat
  deriving DecidableEq, Repr, Inhabited

/-- The registers that `RESET` leaves unspecified (10_state.md R22): all of R12 but `PH`. -/
inductive Reg where
  | opr | neg | x | v | h | y | m | cnt | st | res
  deriving DecidableEq, Repr

/-- The value of register `r`, `w` bits wide, after the `RESET` step number `draw`, when it held `held`
before. R22 and U5: any value, under no law; keeping `held` is one of the values allowed (R127 writes no
other register). Log entry 2. -/
opaque Config.afterReset (w : Nat) (r : Reg) (draw : Nat) (held : BitVec w) : BitVec w

/-- `cmd_ready` while `rst = 1`: any value (U6). Log entry 3. -/
opaque Config.cmdReadyInReset : Nat → Bool

/-- `rsp_valid` while `rst = 1`: any value (U6). Log entry 3. -/
opaque Config.rspValidInReset : Nat → Bool

/-- `rsp_status` while no response is valid: any value (30_encoding.md R52, U6). Log entry 3. -/
opaque Config.rspStatusIdle : Nat → BitVec 2

/-- `rsp_result` while no response is valid: any value (30_encoding.md R52, U6). Log entry 3. -/
opaque Config.rspResultIdle : Nat → BitVec 32

/-- The parameters of a core step while `OPR = 0b11`: 00_scope.md R4 gives none, and no run reaches such
a step (40_sequencer.md R59). Log entry 8. -/
opaque Config.reservedParams : Params

/-- The result of the normaliser for a `Y` above `W - 1`, where 42_mantissa_recurrence.md R75 defines no
shift; no run reaches it (40_sequencer.md R57). Log entry 8. -/
opaque Config.shiftOutOfRange : BitVec 32 → BitVec 32 → BitVec 64

end Sys2Proof
end

