-- ==== Sys2Proof/Machine/Params.lean ====
section
/-! DEFINITION. The parameters of each operation (00_scope.md R4; collected again in 43_log2_u16.md R93,
44_log2_u32.md R99, 45_log2_i32.md R109). -/

namespace Sys2Proof.Machine

/-- The parameters of the operation that `OPR` selects (00_scope.md R4). -/
def paramsOf (op : BitVec 2) : Params :=
  if op = 0b00#2 then { w := 16, s := 4, f := 12, o := 16 }
  else if op = 0b01#2 then { w := 32, s := 5, f := 27, o := 32 }
  else if op = 0b10#2 then { w := 32, s := 5, f := 10, o := 16 }
  else Config.reservedParams

/-- The offset constant `C = 2^(W-2)` (00_scope.md R4, 42_mantissa_recurrence.md R79, conflict C1). -/
def offset (w : Nat) : Nat := 2 ^ (w - 2)

end Sys2Proof.Machine
end

