-- ==== Sys2Proof/Machine/Datapath.lean ====
section
/-! DEFINITION. The shared datapath on non-negative integers (00_scope.md R8): the highest-set-bit
detector of 41_hsb_detector.md and the mantissa recurrence of 42_mantissa_recurrence.md. -/

namespace Sys2Proof.Machine

/-! Phase 1: the highest-set-bit detector. -/

/-- `V[2h-1:h] != 0`: any bit set in the upper half of the `2h`-bit window (41_hsb_detector.md R68). -/
def scanHit (h v : Nat) : Bool := decide ((v >>> h) % 2 ^ h ≠ 0)

/-- `ScanStep(h, V, Y)` on the pair (`V`, `Y`) (41_hsb_detector.md R68). -/
def scanStep (h : Nat) (vy : Nat × Nat) : Nat × Nat :=
  if scanHit h vy.1 then (vy.1 >>> h, vy.2 + h) else vy

/-- The scan steps with half-widths `2^(n-1), …, 4, 2, 1` (41_hsb_detector.md R69). -/
def scanLoop : Nat → Nat × Nat → Nat × Nat
  | 0, vy => vy
  | n + 1, vy => scanLoop n (scanStep (2 ^ n) vy)

/-- `HSB(W, X)` for `W = 2^s`: exactly `s` scan steps from (`X`, 0) (41_hsb_detector.md R70). -/
def hsb (s x : Nat) : Nat := (scanLoop s (x, 0)).2

/-! Phase 2: the mantissa recurrence. -/

/-- `Normalise(W, X, k)` (42_mantissa_recurrence.md R75). -/
def normalise (w x k : Nat) : Nat := x <<< (w - 1 - k)

/-- The squarer: the full double-width product (42_mantissa_recurrence.md R78). -/
def square (m : Nat) : Nat := m * m

/-- The offset adder: the product-plus-offset `p` (42_mantissa_recurrence.md R79). -/
def productPlusOffset (w m : Nat) : Nat := square m + offset w

/-- The overflow comparator: `b = p[2W-1]` (42_mantissa_recurrence.md R80, conflict C2). -/
def overflowBit (w p : Nat) : Bool := p.testBit (2 * w - 1)

/-- The renormalising shifter (42_mantissa_recurrence.md R81). -/
def renormalise (w p : Nat) : Nat := if overflowBit w p then p >>> w else p >>> (w - 1)

/-- The accumulator shifter and the fraction-bit insertion: `(Y << 1) | b`
(42_mantissa_recurrence.md R77, R82). -/
def insertBit (y : Nat) (b : Bool) : Nat := (y <<< 1) ||| b.toNat

/-- `Iter(W, m, Y)` on the pair (`m`, `Y`) (42_mantissa_recurrence.md R83). -/
def iterStep (w : Nat) (my : Nat × Nat) : Nat × Nat :=
  (renormalise w (productPlusOffset w my.1), insertBit my.2 (overflowBit w (productPlusOffset w my.1)))

/-- `n` iterations, with no early exit (42_mantissa_recurrence.md R83). -/
def iterLoop (w : Nat) : Nat → Nat × Nat → Nat × Nat
  | 0, my => my
  | n + 1, my => iterLoop w n (iterStep w my)

/-- The kernel's final mantissa and result: `HSB`, the normaliser and `F` iterations
(42_mantissa_recurrence.md R85). -/
def kernel (p : Params) (x : Nat) : Nat × Nat :=
  iterLoop p.w p.f (normalise p.w x (hsb p.s x), hsb p.s x)

/-- `Log2Core(W, F, X)` (42_mantissa_recurrence.md R85). -/
def log2Core (p : Params) (x : Nat) : Nat := (kernel p x).2

end Sys2Proof.Machine
end

