-- ==== Sys2Proof/Machine/State.lean ====
section
/-! DEFINITION. The state of one block: the eleven registers of 10_state.md R12, the host's coming edges
on the input signals of 30_encoding.md R52, and the host's record of what it sent and got back. -/

namespace Sys2Proof.Machine

/-- The sequencer phase `PH` (10_state.md R14; 40_sequencer.md R54). Its binary encoding is not
observable (U8), so it is a plain enumeration. -/
inductive Phase where
  | idle | scan | norm | iter | fin | done
  deriving DecidableEq, Repr

/-- One edge at which the host may act: the input signals sampled there (30_encoding.md R52), and how
many core steps the core goes on to make before the host's next edge. -/
structure Edge where
  /-- `rst` (70_reset_and_hazards.md R127). -/
  rst : Bool
  /-- `cmd_valid`: the host offers a command. -/
  cmdValid : Bool
  /-- `cmd_op`, sampled only in `ISSUE`. -/
  cmdOp : BitVec 2
  /-- `cmd_x`, sampled only in `ISSUE`. -/
  cmdX : BitVec 32
  /-- `rsp_ready`: the host takes the response. -/
  rspReady : Bool
  /-- The model's own (40_sequencer.md R64, D27; log entry 5): the number of further core steps before
  the host's next edge. Any number; 0 keeps the fine steps of R55 to R60 apart. -/
  coreRun : Nat
  deriving DecidableEq, Repr

/-- A completed exchange: the command word accepted and the response word taken for it
(40_sequencer.md R65). -/
structure Exchange where
  cmd : CmdWord
  rsp : RspWord
  deriving DecidableEq, Repr

/-- The block has no fault outcome: "A model therefore has no fault outcome and no stuck state of the
core's own making" (60_exceptions.md R119). Log entry 9. -/
inductive Fault : Type
  deriving DecidableEq, Repr

/-- Why a command has no meaning. -/
inductive Refusal where
  /-- Raised by no arm of `exec`: every row of the opcode table has its meaning. Safe (the machine
  stops). -/
  | notModelled (mnemonic : String)
  deriving DecidableEq, Repr

/-- The state (10_state.md R12; the fields from `host` on are not the spec's registers). -/
structure State where
  /-- `PH`: the sequencer phase. -/
  ph : Phase
  /-- `OPR[1:0]`: the latched operation select (R15). -/
  opr : BitVec 2
  /-- `NEG`: the sign of the LOG2.I32 operand (R15). -/
  neg : BitVec 1
  /-- `X[31:0]`: the magnitude, held for the normaliser (R13). -/
  x : BitVec 32
  /-- `V[31:0]`: the scan value (R13). -/
  v : BitVec 32
  /-- `H[4:0]`: the half-width the next `SCAN` step tests (R14). -/
  h : BitVec 5
  /-- `Y[31:0]`: the result accumulator (R13). -/
  y : BitVec 32
  /-- `M[63:0]`: the doubled-width working word (R13). -/
  m : BitVec 64
  /-- `CNT[4:0]`: the number of iterations completed (R14). -/
  cnt : BitVec 5
  /-- `ST[1:0]`: the status of the operation in progress (R16). -/
  st : BitVec 2
  /-- `RES[31:0]`: the result field of the response word (R17). -/
  res : BitVec 32
  /-- The edges the host will drive, the next one first (40_sequencer.md R53, R66; log entry 4). -/
  host : List Edge
  /-- The host's memory of the command accepted and not yet answered (log entry 7). -/
  inFlight : Option CmdWord
  /-- The host's record of the exchanges completed since its program began, oldest first
  (40_sequencer.md R65; log entry 7). -/
  answered : List Exchange
  /-- The number of `ISSUE` steps since the host's program began (40_sequencer.md R65; log entry 7). -/
  issues : Nat
  /-- The number of `TAKE` steps since the host's program began (40_sequencer.md R65; log entry 7). -/
  takes : Nat
  /-- The number of steps made, which indexes the free values (log entries 2 and 3). -/
  tick : Nat
  deriving DecidableEq, Repr

/-- The machine right after reset (10_state.md R22: `PH = IDLE`, every other register unspecified). The
zeros are the values log entry 1 names, the spec's none; the host has nothing planned (log entry 4). -/
def State.reset : State where
  ph := .idle
  opr := 0
  neg := 0
  x := 0
  v := 0
  h := 0
  y := 0
  m := 0
  cnt := 0
  st := 0
  res := 0
  host := []
  inFlight := none
  answered := []
  issues := 0
  takes := 0
  tick := 0

end Sys2Proof.Machine
end

