-- ==== Sys2Proof/Machine/Flags.lean ====
section
/-! DEFINITION. The condition codes of the status field and their delivery (30_encoding.md R47,
60_exceptions.md R112 to R116). -/

namespace Sys2Proof.Machine

/-- The conditions a command can end with (60_exceptions.md R114); code 3 is never produced. -/
inductive Condition where
  | ok | zeroInput | illegalOp
  deriving DecidableEq, Repr

/-- The condition codes (30_encoding.md R47). -/
def Condition.code : Condition → BitVec 2
  | .ok => 0#2
  | .zeroInput => 1#2
  | .illegalOp => 2#2

/-- The condition of one of the three operations: `ZERO_INPUT` exactly when the magnitude is zero
(60_exceptions.md R112). -/
def conditionOf (magnitude : BitVec 32) : Condition :=
  if magnitude = 0#32 then .zeroInput else .ok

/-- Delivery of a condition, the analogue of taking an exception: it sets `ST` and changes nothing else
(60_exceptions.md R115). There is no return from it (R118). -/
def State.raise (c : Condition) (s : State) : State := { s with st := c.code }

end Sys2Proof.Machine
end

