-- ==== Sys2Proof/Machine/Operands.lean ====
section
/-! DEFINITION. Operand assembly and result extension: how each operation reads its magnitude and sign
(30_encoding.md R42, 45_log2_i32.md R103, R104) and how its result fills 32 bits (30_encoding.md R44,
40_sequencer.md R59). -/

namespace Sys2Proof.Machine

/-- The magnitude of a LOG2.U16 operand: `zext_32(x[15:0])` (40_sequencer.md R55). -/
def magnitudeU16 (u : BitVec 16) : BitVec 32 := u.setWidth 32

/-- The sign latch `NEG = x[31]` (45_log2_i32.md R103). -/
def signI32 (x : BitVec 32) : BitVec 1 := x.extractLsb' 31 1

/-- The magnitude of a LOG2.I32 operand: `neg_32(x)` if the sign is set, else `x`, read as unsigned
(45_log2_i32.md R103; `-2^31` gives `2^31`, R104). -/
def magnitudeI32 (x : BitVec 32) : BitVec 32 := if signI32 x = 1#1 then -x else x

/-- The LOG2.U16 result field: `zext_32(Y[15:0])` (30_encoding.md R44). -/
def resultU16 (y : BitVec 32) : BitVec 32 := (y.extractLsb' 0 16).setWidth 32

/-- The LOG2.U32 result field: `Y[31:0]` (30_encoding.md R44). -/
def resultU32 (y : BitVec 32) : BitVec 32 := y

/-- The signed 16-bit result `r`: `neg_16(Y[15:0])` if the operand was negative (45_log2_i32.md R105). -/
def signedResult (neg : BitVec 1) (y : BitVec 32) : BitVec 16 :=
  if neg = 1#1 then -(y.extractLsb' 0 16) else y.extractLsb' 0 16

/-- The LOG2.I32 result field: `sext_32(r)` (30_encoding.md R44). -/
def resultI32 (neg : BitVec 1) (y : BitVec 32) : BitVec 32 := (signedResult neg y).signExtend 32

/-- The response word `RSP = {status, result}` (30_encoding.md R43). -/
def makeRsp (status : BitVec 2) (result : BitVec 32) : RspWord := status ++ result

/-- The field `status` of a response word (30_encoding.md R43). -/
def rspStatusField (rsp : RspWord) : BitVec 2 := rsp.extractLsb' 32 2

/-- The field `result` of a response word (30_encoding.md R43). -/
def rspResultField (rsp : RspWord) : BitVec 32 := rsp.extractLsb' 0 32

end Sys2Proof.Machine
end

