-- ==== Sys2Proof/Syntax.lean ====
section
/-! DEFINITION. The operations of spec/opcode_table.json, one constructor per row, and the source lines
of the assembler notation (30_encoding.md R49, R50). -/

namespace Sys2Proof

/-- A decoded command (30_encoding.md R51): the operation with its operand, as R42 reads it out of `x`.
The bits a row ignores (`x[31:16]` of LOG2.U16, all of `x` for the reserved row) have no meaning (R46)
and are no part of the instruction. -/
inductive Instr where
  /-- `LOG2.U16`: operand `x[15:0]`, an unsigned integer (43_log2_u16.md R91). -/
  | log2U16 (u : BitVec 16)
  /-- `LOG2.U32`: operand `x[31:0]`, an unsigned integer (44_log2_u32.md R97). -/
  | log2U32 (u : BitVec 32)
  /-- `LOG2.I32`: operand `x[31:0]`, a two's-complement signed integer (45_log2_i32.md R102). -/
  | log2I32 (v : BitVec 32)
  /-- The reserved operation select `0b11`: no operand (30_encoding.md R45). -/
  | reserved
  deriving DecidableEq, Repr

/-- The three mnemonics of the assembler notation (30_encoding.md R49); the reserved command has none. -/
inductive Mnemonic where
  | log2U16 | log2U32 | log2I32
  deriving DecidableEq, Repr

/-- One line of a host program (30_encoding.md R49): a mnemonic with an integer literal, or `.cmd` with
a whole command word. -/
inductive SourceLine where
  | op (m : Mnemonic) (literal : Int)
  | cmd (word : Nat)
  deriving DecidableEq, Repr

end Sys2Proof
end

