-- ==== Sys2Proof/WellFormed.lean ====
section
/-! DEFINITION. Which terms are well formed. An instruction's operand has exactly the width of its
encoded field, so every instruction is; a source line must keep its literal in the operand's range
(30_encoding.md R49). -/

namespace Sys2Proof

/-- Every instruction is well formed: 30_encoding.md R40 gives every 34-bit word a meaning and R42 admits
every value of the operand field, which the operand's type has exactly. -/
def Instr.wellFormed : Instr → Bool
  | .log2U16 _ => true
  | .log2U32 _ => true
  | .log2I32 _ => true
  | .reserved => true

/-- The operand range of a mnemonic, both ends included (30_encoding.md R42, R49). -/
def Mnemonic.range : Mnemonic → Int × Int
  | .log2U16 => (0, 65535)
  | .log2U32 => (0, 4294967295)
  | .log2I32 => (-2147483648, 2147483647)

/-- "a literal out of range is an assembly error, not a truncation" (30_encoding.md R49). -/
def SourceLine.wellFormed : SourceLine → Bool
  | .op m literal => decide (m.range.1 ≤ literal) && decide (literal ≤ m.range.2)
  | .cmd word => decide (word < 2 ^ 34)

end Sys2Proof
end

