-- ==== Sys2Proof/Decode.lean ====
section
/-! DEFINITION. The decoder of 30_encoding.md R51 and the encoder that inverts it (R40 to R42). -/

namespace Sys2Proof

/-- The field `op`, bits 33:32 of a command word (30_encoding.md R40). -/
def cmdOp (cmd : CmdWord) : BitVec 2 := cmd.extractLsb' 32 2

/-- The field `x`, bits 31:0 of a command word (30_encoding.md R40). -/
def cmdX (cmd : CmdWord) : BitVec 32 := cmd.extractLsb' 0 32

/-- `CMD = {op, x}` (30_encoding.md R40). -/
def makeCmd (op : BitVec 2) (x : BitVec 32) : CmdWord := op ++ x

/-- The decoder, total: "It never fails and never reads anything but the command word"
(30_encoding.md R51, with the operation map of R41 and the operands of R42). -/
def decode (cmd : CmdWord) : Instr :=
  if cmdOp cmd = 0b00#2 then .log2U16 ((cmdX cmd).extractLsb' 0 16)
  else if cmdOp cmd = 0b01#2 then .log2U32 (cmdX cmd)
  else if cmdOp cmd = 0b10#2 then .log2I32 (cmdX cmd)
  else .reserved

/-- Why a number is no command word. -/
inductive NotACommand where
  /-- The number needs more than the 34 bits of the one format (30_encoding.md R40, R48). Raised by
  `decodeNumber`; safe, since no rule gives such a number a meaning. -/
  | widerThan34Bits
  deriving DecidableEq, Repr

/-- A number as a command word: refused by name if it is wider than 34 bits (30_encoding.md R48: "every
command is 34 bits"). -/
def decodeNumber (w : Nat) : Except NotACommand Instr :=
  if w < 2 ^ 34 then .ok (decode (BitVec.ofNat 34 w)) else .error .widerThan34Bits

/-- The instruction read from bits numbered as spec/opcode_table.json numbers them: the low `nbits` bits
of `w`, bit 0 the least significant bit of the command word. -/
def decodeTableWord (nbits w : Nat) : Option Instr :=
  match decodeNumber (w % 2 ^ nbits) with
  | .ok i => some i
  | .error _ => none

/-- The operation select of an instruction (30_encoding.md R41). -/
def Instr.opSelect : Instr → BitVec 2
  | .log2U16 _ => 0b00#2
  | .log2U32 _ => 0b01#2
  | .log2I32 _ => 0b10#2
  | .reserved => 0b11#2

/-- The operand field an assembler emits (30_encoding.md R49: `x[31:16] = 0` for LOG2.U16); 0 for the
reserved row, whose `x` is ignored. -/
def Instr.operandField : Instr → BitVec 32
  | .log2U16 u => u.setWidth 32
  | .log2U32 u => u
  | .log2I32 v => v
  | .reserved => 0#32

/-- The command word of an instruction (30_encoding.md R40, R41, R49). -/
def encode (i : Instr) : CmdWord := makeCmd i.opSelect i.operandField

end Sys2Proof
end

