-- ==== Sys2Proof/Machine/Ports.lean ====
section
/-! DEFINITION. The signals of 30_encoding.md R52: the inputs of the next edge, the outputs as functions
of the state, and the handshake conditions. -/

namespace Sys2Proof.Machine

/-- An edge at which the host drives every input to 0; what the host does once its list is used up
(log entry 4). -/
def Edge.quiet : Edge where
  rst := false
  cmdValid := false
  cmdOp := 0
  cmdX := 0
  rspReady := false
  coreRun := 0

/-- The command word on the command port at an edge: `CMD = {cmd_op, cmd_x}` (30_encoding.md R40). -/
def Edge.cmd (e : Edge) : CmdWord := makeCmd e.cmdOp e.cmdX

/-- An edge at which the host offers the command word `c` and lets the core make `n` steps after it. -/
def Edge.offer (c : CmdWord) (n : Nat) : Edge :=
  { Edge.quiet with cmdValid := true, cmdOp := Sys2Proof.cmdOp c, cmdX := Sys2Proof.cmdX c, coreRun := n }

/-- An edge at which the host takes the response. -/
def Edge.take : Edge := { Edge.quiet with rspReady := true }

/-- An edge at which the host asserts `rst`. -/
def Edge.reset : Edge := { Edge.quiet with rst := true }

/-- The host's next edge. -/
def State.edge (s : State) : Edge := s.host.headD Edge.quiet

/-- `ISSUE` happens at this edge: no reset, `PH = IDLE` and a command offered (40_sequencer.md R55,
70_reset_and_hazards.md R127). -/
def State.accepts (s : State) : Bool :=
  !s.edge.rst && decide (s.ph = .idle) && s.edge.cmdValid

/-- `cmd_ready`: 1 exactly when `PH = IDLE`; any value while `rst = 1` (30_encoding.md R52, U6). -/
def State.cmdReady (s : State) : Bool :=
  if s.edge.rst then Config.cmdReadyInReset s.tick else decide (s.ph = .idle)

/-- `rsp_valid`: 1 exactly when `PH = DONE`; any value while `rst = 1` (30_encoding.md R52, U6). -/
def State.rspValid (s : State) : Bool :=
  if s.edge.rst then Config.rspValidInReset s.tick else decide (s.ph = .done)

/-- `rsp_status`: `ST` while a response is valid, else any value (30_encoding.md R52, U6). DESIGN CHOICE
(log entry 3): at an edge with `rst = 1` no response counts as valid, so the value is free there in `DONE`
too, whatever the free `rsp_valid` is. Safe: U6 frees it only while `rsp_valid = 0`. -/
def State.rspStatus (s : State) : BitVec 2 :=
  if s.ph = .done ∧ s.edge.rst = false then s.st else Config.rspStatusIdle s.tick

/-- `rsp_result`: `RES` while a response is valid, else any value (30_encoding.md R52, U6). DESIGN CHOICE
(log entry 3): free at an edge with `rst = 1` in `DONE` too, as `rsp_status` is. Safe. -/
def State.rspResult (s : State) : BitVec 32 :=
  if s.ph = .done ∧ s.edge.rst = false then s.res else Config.rspResultIdle s.tick

/-- The instruction on the command port: the decoder applied to the offered word (30_encoding.md R51). -/
def State.offered (s : State) : Instr := decode s.edge.cmd

end Sys2Proof.Machine
end

