-- ==== Sys2Proof/Machine/Ops.lean ====
section
/-! DEFINITION. The steps of 40_sequencer.md R55 to R60 and 70_reset_and_hazards.md R127 as operations on
the state, and the run of core steps between two edges of the host. -/

namespace Sys2Proof.Machine

/-! ISSUE -/

/-- `ISSUE` of one of the three operations, from its operation select, magnitude and sign
(40_sequencer.md R55); `M`, `CNT` and `RES` keep what they held. -/
def State.issue (s : State) (op : BitVec 2) (mag : BitVec 32) (neg : BitVec 1) : State :=
  State.raise (conditionOf mag)
    { s with
      opr := op
      neg := neg
      x := mag
      v := mag
      y := 0#32
      h := BitVec.ofNat 5 ((paramsOf op).w / 2)
      ph := .scan }

/-- `ISSUE` of the reserved command: only `OPR`, `ST`, `RES`, `PH` are written (40_sequencer.md R55,
30_encoding.md R45, 60_exceptions.md R113). -/
def State.issueReserved (s : State) : State :=
  State.raise .illegalOp { s with opr := 0b11#2, res := 0#32, ph := .done }

/-! Core steps -/

/-- `SCAN` (40_sequencer.md R56). -/
def State.scan (s : State) : State :=
  { s with
    v := BitVec.ofNat 32 (scanStep s.h.toNat (s.v.toNat, s.y.toNat)).1
    y := BitVec.ofNat 32 (scanStep s.h.toNat (s.v.toNat, s.y.toNat)).2
    h := BitVec.ofNat 5 (s.h.toNat / 2)
    ph := if s.h = 1#5 then .norm else .scan }

/-- The value `NORM` writes to `M`: `X << (W-1-Y)` for `Y <= W-1` (40_sequencer.md R57). -/
def State.normalised (s : State) : BitVec 64 :=
  if s.y.toNat < (paramsOf s.opr).w then
    BitVec.ofNat 64 (normalise (paramsOf s.opr).w s.x.toNat s.y.toNat)
  else Config.shiftOutOfRange s.x s.y

/-- `NORM` (40_sequencer.md R57). -/
def State.norm (s : State) : State :=
  { s with m := s.normalised, cnt := 0#5, ph := .iter }

/-- The pair (`M`, `Y`) after one iteration on `M[W-1:0]` and `Y` (40_sequencer.md R58). -/
def State.iterated (s : State) : Nat × Nat :=
  iterStep (paramsOf s.opr).w (s.m.toNat % 2 ^ (paramsOf s.opr).w, s.y.toNat)

/-- `ITER` (40_sequencer.md R58). -/
def State.iter (s : State) : State :=
  { s with
    m := BitVec.ofNat 64 s.iterated.1
    y := BitVec.ofNat 32 s.iterated.2
    cnt := s.cnt + 1#5
    ph := if s.cnt.toNat + 1 = (paramsOf s.opr).f then .fin else .iter }

/-- The value `FIN` leaves in `RES` (40_sequencer.md R59); with `OPR = 0b11` no rule writes it. -/
def State.assembled (s : State) : BitVec 32 :=
  if s.opr = 0b00#2 then resultU16 s.y
  else if s.opr = 0b01#2 then resultU32 s.y
  else if s.opr = 0b10#2 then resultI32 s.neg s.y
  else s.res

/-- `FIN` (40_sequencer.md R59). -/
def State.fin (s : State) : State := { s with res := s.assembled, ph := .done }

/-- The one core step that the phase enables (40_sequencer.md R53); in `IDLE` and `DONE` the core does
nothing. -/
def State.coreStep (s : State) : State :=
  match s.ph with
  | .idle => s
  | .scan => s.scan
  | .norm => s.norm
  | .iter => s.iter
  | .fin => s.fin
  | .done => s

/-- `n` core steps, or as many as are enabled. -/
def State.coreSteps : Nat → State → State
  | 0, s => s
  | n + 1, s => State.coreSteps n s.coreStep

/-! TAKE and RESET -/

/-- The response word `{ST, RES}` (40_sequencer.md R60, 30_encoding.md R43). -/
def State.response (s : State) : RspWord := makeRsp s.st s.res

/-- The host's record after it has taken the response of the command in flight (40_sequencer.md R65). -/
def State.recorded (s : State) : List Exchange :=
  match s.inFlight with
  | some c => s.answered ++ [{ cmd := c, rsp := s.response }]
  | none => s.answered

/-- `TAKE`: the host receives the response and counts it, `PH <- IDLE`, no other register is written
(40_sequencer.md R60, R65). -/
def State.take (s : State) : State :=
  { s with ph := .idle, inFlight := none, answered := s.recorded, takes := s.takes + 1 }

/-- `RESET`: `PH <- IDLE`; every other register is unspecified afterwards (70_reset_and_hazards.md R127,
10_state.md R22; log entry 2), and an operation in flight gets no response (R128). -/
def State.resetStep (s : State) : State :=
  { s with
    ph := .idle
    opr := Config.afterReset 2 .opr s.tick s.opr
    neg := Config.afterReset 1 .neg s.tick s.neg
    x := Config.afterReset 32 .x s.tick s.x
    v := Config.afterReset 32 .v s.tick s.v
    h := Config.afterReset 5 .h s.tick s.h
    y := Config.afterReset 32 .y s.tick s.y
    m := Config.afterReset 64 .m s.tick s.m
    cnt := Config.afterReset 5 .cnt s.tick s.cnt
    st := Config.afterReset 2 .st s.tick s.st
    res := Config.afterReset 32 .res s.tick s.res
    inFlight := none }

/-! An operation, and what happens at an edge without one -/

/-- An accepted command: from the state its `ISSUE` leaves, the core steps up to the host's next edge
(40_sequencer.md R64). A command offered while `PH` is not `IDLE` has no effect at all (R62). -/
def State.operate (s issued : State) : Host.Outcome State Fault Refusal :=
  if s.ph = .idle then .next (State.coreSteps s.edge.coreRun issued) else .next s

/-- What happens at an edge where no command is accepted: `RESET` before everything else
(70_reset_and_hazards.md R127), the core step and those up to the next edge, `TAKE`, or nothing
(40_sequencer.md R62). -/
def State.otherwise (s : State) : State :=
  if s.edge.rst then s.resetStep
  else if s.ph = .done ∧ s.edge.rspReady = true then s.take
  else State.coreSteps s.edge.coreRun s.coreStep

/-- The host goes on to its next edge. -/
def State.advance (s : State) : State := { s with host := s.host.tail, tick := s.tick + 1 }

/-- The host notes the command that was accepted and counts its `ISSUE` (40_sequencer.md R65). -/
def State.note (c : CmdWord) (s : State) : State :=
  { s with inFlight := some c, issues := s.issues + 1 }

/-- What a step adds around an accepted command: the host notes it and goes on to its next edge. -/
def afterIssue (c : CmdWord) :
    Host.Outcome State Fault Refusal → Host.Outcome State Fault Refusal
  | .next s => .next (s.note c).advance
  | .fault r => .fault r
  | .refused r => .refused r

end Sys2Proof.Machine
end

