-- ==== Sys2Proof/Machine/Log2.lean ====
section
/-! DEFINITION. The meanings of the three operations. -/

namespace Sys2Proof.Machine

/-- `LOG2.U16` (43_log2_u16.md R91): `ISSUE` with the zero-extended operand and sign 0, then the core
steps. -/
def execLog2U16 (u : BitVec 16) (s : State) : Host.Outcome State Fault Refusal :=
  s.operate (s.issue 0b00#2 (magnitudeU16 u) 0#1)

/-- `LOG2.U32` (44_log2_u32.md R97): `ISSUE` with the operand itself and sign 0, then the core steps. -/
def execLog2U32 (u : BitVec 32) (s : State) : Host.Outcome State Fault Refusal :=
  s.operate (s.issue 0b01#2 u 0#1)

/-- `LOG2.I32` (45_log2_i32.md R102): `ISSUE` with the operand's magnitude and sign, then the core
steps. -/
def execLog2I32 (v : BitVec 32) (s : State) : Host.Outcome State Fault Refusal :=
  s.operate (s.issue 0b10#2 (magnitudeI32 v) (signI32 v))

end Sys2Proof.Machine
end

