-- ==== Sys2Proof/Machine/Reserved.lean ====
section
/-! DEFINITION. The meaning of the reserved command. -/

namespace Sys2Proof.Machine

/-- The reserved command (30_encoding.md R45, 60_exceptions.md R113): accepted, no datapath step,
`ILLEGAL_OP` with result 0. -/
def execReserved (s : State) : Host.Outcome State Fault Refusal :=
  s.operate s.issueReserved

end Sys2Proof.Machine
end

