-- ==== Sys2Proof/Machine/Dispatch.lean ====
section
/-! DEFINITION. One arm per row of spec/opcode_table.json. -/

namespace Sys2Proof.Machine

def exec (i : Instr) (s : State) : Host.Outcome State Fault Refusal :=
  match i with
  | .log2U16 u => Sys2Proof.Machine.execLog2U16 u s
  | .log2U32 u => Sys2Proof.Machine.execLog2U32 u s
  | .log2I32 v => Sys2Proof.Machine.execLog2I32 v s
  | .reserved => Sys2Proof.Machine.execReserved s

end Sys2Proof.Machine
end

