-- ==== Sys2Proof/Machine/Step.lean ====
section
/-! DEFINITION. One step: what happens at the host's next edge, and the core steps that follow it. -/

namespace Sys2Proof.Machine

/-- One step of the block (40_sequencer.md R53). An accepted command is decoded and run by `exec`;
otherwise `RESET`, a core step, `TAKE` or nothing happens. -/
def step (s : State) : Host.Outcome State Fault Refusal :=
  if s.accepts then afterIssue s.edge.cmd (exec s.offered s)
  else .next s.otherwise.advance

/-- `s` ready for a command, with the command word in the low `nbits` bits of `w` offered at its next
edge and the core left to run to the response (34 core steps are the most an operation takes,
40_sequencer.md R61). The block has no fetch (20_memory.md R38): offering the command to an idle block
is how it comes to run (log entry 10). -/
def State.withFetchWord (s : State) (nbits w : Nat) : State :=
  { s with ph := .idle, host := Edge.offer (BitVec.ofNat 34 (w % 2 ^ nbits)) 34 :: s.host }

end Sys2Proof.Machine
end

