-- ==== Sys2Proof/Machine/Assembler.lean ====
section
/-! DEFINITION. The assembler notation of 30_encoding.md R49 and R50: a line of text to a source line, a
source line to a command word. Nothing in the block reads it; it fixes how programs are written. -/

namespace Sys2Proof.Machine

/-- Why a line is no command. Each is "an assembly error" (30_encoding.md R49); safe, since no word is
produced. -/
inductive AsmError where
  /-- The first word is no mnemonic, no name of R50 and not `.cmd`. Raised by `readLine`. -/
  | unknownMnemonic
  /-- The operand is no integer literal. Raised by `readLine`. -/
  | badLiteral
  /-- The line is not one word and one literal. Raised by `readLine`. -/
  | badLine
  /-- The literal is outside the operand's range. Raised by `assemble`. -/
  | outOfRange
  deriving DecidableEq, Repr

/-- The operation select of a mnemonic (30_encoding.md R41). -/
def mnemonicSelect : Mnemonic → BitVec 2
  | .log2U16 => 0b00#2
  | .log2U32 => 0b01#2
  | .log2I32 => 0b10#2

/-- The command word of a source line (30_encoding.md R49): a negative literal is `trunc_32(2^32 + value)`
and LOG2.U16 gets `x[31:16] = 0`, its literal being below `2^16`. -/
def assemble (l : SourceLine) : Except AsmError CmdWord :=
  if l.wellFormed then
    match l with
    | .op m literal => .ok (makeCmd (mnemonicSelect m) (BitVec.ofInt 32 literal))
    | .cmd word => .ok (BitVec.ofNat 34 word)
  else .error .outOfRange

/-- The mnemonics of R49 and the six further names of R50. -/
def mnemonicNamed (name : String) : Option Mnemonic :=
  if name = "LOG2.U16" ∨ name = "log2_u16" ∨ name = "log2_fixed_q4_12" then some .log2U16
  else if name = "LOG2.U32" ∨ name = "log2_u32" ∨ name = "log2_fixed_q5_27" then some .log2U32
  else if name = "LOG2.I32" ∨ name = "log2_i32" ∨ name = "log2_fixed_signed_q6_10" then some .log2I32
  else none

/-- The digits of a literal, each at the place of its value, in the case R49 writes them. -/
def literalDigits : List Char := "0123456789ABCDEF".toList

/-- The value of a digit: its place among `literalDigits`, letters of both cases counting alike
(log entry 15). -/
def digitValue (c : Char) : Option Nat := literalDigits.idxOf? c.toUpper

/-- The digits that follow, read in `base` after the value `acc`. -/
def readDigits (base acc : Nat) : List Char → Option Nat
  | [] => some acc
  | c :: cs =>
    match digitValue c with
    | some d => if d < base then readDigits base (base * acc + d) cs else none
    | none => none

/-- A literal without a sign: decimal, or hexadecimal after `0x`. -/
def readNatural : List Char → Option Nat
  | '0' :: 'x' :: c :: cs => readDigits 16 0 (c :: cs)
  | c :: cs => readDigits 10 0 (c :: cs)
  | [] => none

/-- An integer literal (30_encoding.md R49): decimal with or without a minus sign, or hexadecimal. -/
def readInteger : List Char → Option Int
  | '-' :: c :: cs => (readDigits 10 0 (c :: cs)).map fun n => -(n : Int)
  | cs => (readNatural cs).map fun n => (n : Int)

/-- A line without its comment: `;` starts one (30_encoding.md R49). -/
def withoutComment : List Char → List Char
  | [] => []
  | c :: cs => if c = ';' then [] else c :: withoutComment cs

/-- The words of a line, separated by spaces and tabs; `word` holds the letters of the word in hand. -/
def wordsOf (word : List Char) : List Char → List (List Char)
  | [] => if word = [] then [] else [word]
  | c :: cs =>
    if c = ' ' ∨ c = '\t' then
      (if word = [] then wordsOf [] cs else word :: wordsOf [] cs)
    else wordsOf (word ++ [c]) cs

/-- One line of text (30_encoding.md R49); a line with nothing but a comment is no command. `.cmd` takes
a literal in which underscores may separate digits, as in `.cmd 0x3_DEADBEEF`. -/
def readLine (line : String) : Except AsmError (Option SourceLine) :=
  match wordsOf [] (withoutComment line.toList) with
  | [] => .ok none
  | [name, literal] =>
    if String.ofList name = ".cmd" then
      match readNatural (literal.filter (· ≠ '_')) with
      | some w => .ok (some (.cmd w))
      | none => .error .badLiteral
    else
      match mnemonicNamed (String.ofList name) with
      | none => .error .unknownMnemonic
      | some m =>
        match readInteger literal with
        | some v => .ok (some (.op m v))
        | none => .error .badLiteral
  | _ => .error .badLine

/-- The command word a line of text stands for, if it is a command. -/
def assembleLine (line : String) : Except AsmError (Option CmdWord) :=
  match readLine line with
  | .ok none => .ok none
  | .ok (some l) => (assemble l).map some
  | .error e => .error e

/-- The command words of a program, one command a line (30_encoding.md R49). -/
def assembleLines : List String → Except AsmError (List CmdWord)
  | [] => .ok []
  | l :: ls =>
    match assembleLine l, assembleLines ls with
    | .ok (some c), .ok cs => .ok (c :: cs)
    | .ok none, .ok cs => .ok cs
    | .error e, _ => .error e
    | .ok _, .error e => .error e

end Sys2Proof.Machine
end

