-- ==== Sys2Proof/Machine/Program.lean ====
section
/-! DEFINITION. A host program as the host drives it: a list of commands, each response taken before the
next command is issued (30_encoding.md R49, 40_sequencer.md R65); where its run starts, the steps of a
run, when the program has ended, and its end state. -/

namespace Sys2Proof.Machine

/-- The edges of a host that issues the commands of a program one after the other and takes each response
(40_sequencer.md R65, R66): it offers a command, waits for the 34 core steps that suffice for every
operation (R61), and takes the response. -/
def programEdges : List CmdWord → List Edge
  | [] => []
  | c :: cs => Edge.offer c 34 :: Edge.take :: programEdges cs

/-- The state from which a host runs a program, if the run can start in `s`: a run starts with `PH = IDLE`
(40_sequencer.md R65), and its steps are counted and its responses collected from here on (log entry 7). -/
def State.withProgram (s : State) (cs : List CmdWord) : Option State :=
  if s.ph = .idle then
    some { s with host := programEdges cs, inFlight := none, answered := [], issues := 0, takes := 0 }
  else none

/-- The state that `n` steps of a run lead to (40_sequencer.md R65: "a finite or infinite sequence of
steps"), or the first outcome that is no next state. -/
def runFor : Nat → State → Host.Outcome State Fault Refusal
  | 0, s => .next s
  | n + 1, s =>
    match step s with
    | .next t => runFor n t
    | stop => stop

/-- A program of `n` commands has ended: `n` `ISSUE` and `n` `TAKE` steps have happened since its run
started, and `PH = IDLE` (40_sequencer.md R65). -/
def State.ended (s : State) (n : Nat) : Bool :=
  decide (s.issues = n) && decide (s.takes = n) && decide (s.ph = .idle)

/-- The response words the host has taken since its program's run started, in order: the end state of the
program, together with `PH = IDLE` (40_sequencer.md R65). -/
def State.responses (s : State) : List RspWord := s.answered.map Exchange.rsp

end Sys2Proof.Machine
end

