-- ==== Sys2Proof/Machine/Closed.lean ====
section
/-! DEFINITION. Each operation as a closed function of its operand (43_log2_u16.md R91, 44_log2_u32.md
R97, 45_log2_i32.md R102, 30_encoding.md R45), its written-out form with every mask and constant, and its
step count (40_sequencer.md R61). The step rules define the results; these are the forms a coarse model
would use, and the obligations say that the two agree (R64). -/

namespace Sys2Proof

open Machine

/-! What a command latches and answers -/

/-- The magnitude a command hands to the datapath (40_sequencer.md R55); the reserved command hands
none. -/
def Instr.magnitude : Instr → BitVec 32
  | .log2U16 u => magnitudeU16 u
  | .log2U32 u => u
  | .log2I32 v => magnitudeI32 v
  | .reserved => 0#32

/-- The sign a command latches in `NEG` (40_sequencer.md R55). -/
def Instr.sign : Instr → BitVec 1
  | .log2U16 _ => 0#1
  | .log2U32 _ => 0#1
  | .log2I32 v => signI32 v
  | .reserved => 0#1

end Sys2Proof

namespace Sys2Proof.Machine

/-- The 16-bit unsigned result `r` of LOG2.U16: `trunc_16(Log2Core(16, 12, u))` (43_log2_u16.md R91). -/
def closedU16 (u : BitVec 16) : BitVec 16 := BitVec.ofNat 16 (log2Core (paramsOf 0b00#2) u.toNat)

/-- The 32-bit unsigned result `r` of LOG2.U32: `trunc_32(Log2Core(32, 27, u))` (44_log2_u32.md R97). -/
def closedU32 (u : BitVec 32) : BitVec 32 := BitVec.ofNat 32 (log2Core (paramsOf 0b01#2) u.toNat)

/-- The 16-bit signed result `r` of LOG2.I32 (45_log2_i32.md R102). -/
def closedI32 (v : BitVec 32) : BitVec 16 :=
  if signI32 v = 1#1 then -(BitVec.ofNat 16 (log2Core (paramsOf 0b10#2) (magnitudeI32 v).toNat))
  else BitVec.ofNat 16 (log2Core (paramsOf 0b10#2) (magnitudeI32 v).toNat)

end Sys2Proof.Machine

namespace Sys2Proof

open Machine

/-- The field `result` of the response to a command (30_encoding.md R44). -/
def Instr.result : Instr → BitVec 32
  | .log2U16 u => (closedU16 u).setWidth 32
  | .log2U32 u => closedU32 u
  | .log2I32 v => (closedI32 v).signExtend 32
  | .reserved => 0#32

/-- The condition a command ends with (60_exceptions.md R112 to R114). -/
def Instr.condition : Instr → Condition
  | .log2U16 u => if u = 0#16 then .zeroInput else .ok
  | .log2U32 u => if u = 0#32 then .zeroInput else .ok
  | .log2I32 v => if v = 0#32 then .zeroInput else .ok
  | .reserved => .illegalOp

/-- The response word to a command (30_encoding.md R43). -/
def Instr.response (i : Instr) : RspWord := makeRsp i.condition.code i.result

/-- Core steps between `ISSUE` and `DONE` (40_sequencer.md R61). -/
def Instr.coreStepCount : Instr → Nat
  | .log2U16 _ => 18
  | .log2U32 _ => 34
  | .log2I32 _ => 17
  | .reserved => 0

end Sys2Proof

namespace Sys2Proof.Machine

/-- The pair of mantissa and accumulator after `n` iterations on the magnitude `x`
(42_mantissa_recurrence.md R75, R83). -/
def recurrence (p : Params) (x n : Nat) : Nat × Nat :=
  iterLoop p.w n (normalise p.w x (hsb p.s x), hsb p.s x)

/-- The state after the `ISSUE` step of a command (40_sequencer.md R55). -/
def State.issued (s : State) : Instr → State
  | .log2U16 u => s.issue 0b00#2 (magnitudeU16 u) 0#1
  | .log2U32 u => s.issue 0b01#2 u 0#1
  | .log2I32 v => s.issue 0b10#2 (magnitudeI32 v) (signI32 v)
  | .reserved => s.issueReserved

/-! The written-out forms -/

/-- One line `if (V & mask) != 0 then Y <- Y + h; V <- V >> h` of the written-out scans
(43_log2_u16.md R91, 44_log2_u32.md R97; the masks of 41_hsb_detector.md R69). -/
def maskedScan (mask h : Nat) (vy : Nat × Nat) : Nat × Nat :=
  if vy.1 &&& mask ≠ 0 then (vy.1 >>> h, vy.2 + h) else vy

/-- The last line of the written-out scans, which leaves `V` alone. -/
def lastMaskedScan (vy : Nat × Nat) : Nat := if vy.1 &&& 0x2 ≠ 0 then vy.2 + 1 else vy.2

/-- The written-out scan for `W = 16` (43_log2_u16.md R91). -/
def writtenScan16 (u : Nat) : Nat :=
  lastMaskedScan (maskedScan 0x000C 2 (maskedScan 0x00F0 4 (maskedScan 0xFF00 8 (u, 0))))

/-- The written-out scan for `W = 32` (44_log2_u32.md R97). -/
def writtenScan32 (u : Nat) : Nat :=
  lastMaskedScan (maskedScan 0x0000000C 2 (maskedScan 0x000000F0 4 (maskedScan 0x0000FF00 8
    (maskedScan 0xFFFF0000 16 (u, 0)))))

/-- The body of the written-out loops on the pair (`m`, `Y`), with its constant, its tested bit and its
two shifts. -/
def writtenIter (constant bit high low : Nat) (my : Nat × Nat) : Nat × Nat :=
  if (my.1 * my.1 + constant).testBit bit then
    ((my.1 * my.1 + constant) >>> high, (my.2 <<< 1) ||| 1)
  else ((my.1 * my.1 + constant) >>> low, my.2 <<< 1)

/-- `repeat n times` of the written-out forms. -/
def repeatTimes (f : Nat × Nat → Nat × Nat) : Nat → Nat × Nat → Nat × Nat
  | 0, my => my
  | n + 1, my => repeatTimes f n (f my)

/-- The written-out LOG2.U16 (43_log2_u16.md R91). -/
def writtenU16 (u : Nat) : Nat :=
  (repeatTimes (writtenIter 0x4000 31 16 15) 12
    (u <<< (15 - writtenScan16 u), writtenScan16 u)).2

/-- The written-out LOG2.U32 (44_log2_u32.md R97). -/
def writtenU32 (u : Nat) : Nat :=
  (repeatTimes (writtenIter 0x40000000 63 32 31) 27
    (u <<< (31 - writtenScan32 u), writtenScan32 u)).2

/-- The written-out magnitude path of LOG2.I32 (45_log2_i32.md R102). -/
def writtenI32 (mag : Nat) : Nat :=
  (repeatTimes (writtenIter 0x40000000 63 32 31) 10
    (mag <<< (31 - writtenScan32 mag), writtenScan32 mag)).2

end Sys2Proof.Machine
end

