-- ==== Sys2Proof/Safety.lean ====
section
/-! DEFINITION. What counts as a safe state of the block: the bounds of 10_state.md R24 in an inductive
form, the agreement of the registers with the command in flight (10_state.md R11, R21, 20_memory.md R36),
and the agreement of the host's counts with its record (40_sequencer.md R65). -/

namespace Sys2Proof.Machine

/-- The eleven registers of a state (10_state.md R12), without the host's fields. -/
def State.regs (s : State) :
    Phase × BitVec 2 × BitVec 1 × BitVec 32 × BitVec 32 × BitVec 5 × BitVec 32 × BitVec 64 × BitVec 5 ×
      BitVec 2 × BitVec 32 :=
  (s.ph, s.opr, s.neg, s.x, s.v, s.h, s.y, s.m, s.cnt, s.st, s.res)

/-- The half-widths a `SCAN` step can meet (40_sequencer.md R56). -/
def State.halfWidth (s : State) : Prop :=
  s.h = 16#5 ∨ s.h = 8#5 ∨ s.h = 4#5 ∨ s.h = 2#5 ∨ s.h = 1#5

/-- The mantissa is normalised, or 0 for a zero magnitude (42_mantissa_recurrence.md R86, R90). -/
def State.mantissaInRange (s : State) : Prop :=
  (s.x ≠ 0#32 → 2 ^ ((paramsOf s.opr).w - 1) ≤ s.m.toNat ∧ s.m.toNat < 2 ^ (paramsOf s.opr).w) ∧
    (s.x = 0#32 → s.m = 0#64)

/-- What holds of the registers of an operation in progress, in every core phase. -/
def State.operandInRange (s : State) : Prop :=
  s.opr ≠ 0b11#2 ∧ s.x.toNat < 2 ^ (paramsOf s.opr).w ∧ s.v.toNat < 2 ^ (paramsOf s.opr).w

/-- The width facts of 10_state.md R24, made inductive: the scan invariant of 41_hsb_detector.md R71
while `PH = SCAN`, its outcome while `PH = NORM`, and the bounds of 42_mantissa_recurrence.md R86 and R88
while `PH` is `ITER` or `FIN`. -/
def State.Bounded (s : State) : Prop :=
  match s.ph with
  | .idle => True
  | .scan =>
    s.operandInRange ∧ s.halfWidth ∧ s.v.toNat = s.x.toNat >>> s.y.toNat ∧
      s.v.toNat < 2 ^ (2 * s.h.toNat) ∧ s.y.toNat + 2 * s.h.toNat ≤ (paramsOf s.opr).w ∧
      (s.x ≠ 0#32 → s.v ≠ 0#32) ∧ (s.x = 0#32 → s.y = 0#32)
  | .norm =>
    s.operandInRange ∧ s.y.toNat < (paramsOf s.opr).w ∧
      (s.x ≠ 0#32 → 2 ^ s.y.toNat ≤ s.x.toNat ∧ s.x.toNat < 2 ^ (s.y.toNat + 1)) ∧
      (s.x = 0#32 → s.y = 0#32)
  | .iter =>
    s.operandInRange ∧ s.mantissaInRange ∧ s.cnt.toNat < (paramsOf s.opr).f ∧
      s.y.toNat < 2 ^ ((paramsOf s.opr).s + s.cnt.toNat)
  | .fin =>
    s.operandInRange ∧ s.mantissaInRange ∧ s.cnt.toNat = (paramsOf s.opr).f ∧
      s.y.toNat < 2 ^ ((paramsOf s.opr).s + (paramsOf s.opr).f)
  | .done => True

/-- The block and its host agree: nothing is in flight in `IDLE`; in every other phase the registers are
those that the command in flight leaves after some number of core steps from its `ISSUE`, whatever the
state it was issued in; and every response taken is the one its command has (20_memory.md R36,
10_state.md R11). -/
def State.Tracks (s : State) : Prop :=
  (s.ph = .idle → s.inFlight = none) ∧
    (s.ph ≠ .idle → ∃ c, s.inFlight = some c ∧
      ∃ (start : State) (n : Nat), s.regs = (State.coreSteps n (start.issued (decode c))).regs) ∧
    ∀ e ∈ s.answered, e.rsp = (decode e.cmd).response

/-- The host's counts fit its record: one response recorded for each `TAKE`, and for each of them an
`ISSUE`, with one more for the command in flight (40_sequencer.md R65, 70_reset_and_hazards.md R134). An
`ISSUE` whose operation a `RESET` dropped has neither. -/
def State.Counted (s : State) : Prop :=
  s.takes = s.answered.length ∧ s.takes + s.inFlight.toList.length ≤ s.issues

end Sys2Proof.Machine
end

