-- ==== Sys2Proof/Certificates/Slice0/Obligations.lean ====
section
/-! DEFINITION. The statements for the provers, from the numbered rules of spec/. -/

open Sys2Proof Sys2Proof.Machine

/-! Encoding -/

/-- Encoding and decoding agree on every well-formed instruction, every operand at every value
(30_encoding.md R40 to R42).
What `encode` puts into ignored bits is log entry 13. -/
def Obligations.DecodeEncodeAgree : Prop :=
  ∀ i : Instr, i.wellFormed = true → decode (encode i) = i

/-- 30_encoding.md R51, whole: the four cases of the decoder, and exactly which words it does not tell
apart. -/
def Obligations.DecoderReadsOpAndOperand : Prop :=
  (∀ c : CmdWord, cmdOp c = 0b00#2 → decode c = .log2U16 ((cmdX c).extractLsb' 0 16)) ∧
  (∀ c : CmdWord, cmdOp c = 0b01#2 → decode c = .log2U32 (cmdX c)) ∧
  (∀ c : CmdWord, cmdOp c = 0b10#2 → decode c = .log2I32 (cmdX c)) ∧
  (∀ c : CmdWord, cmdOp c = 0b11#2 → decode c = .reserved) ∧
  ∀ a b : CmdWord, decode a = decode b ↔
    a = b ∨
    (cmdOp a = 0b00#2 ∧ cmdOp b = 0b00#2 ∧ (cmdX a).extractLsb' 0 16 = (cmdX b).extractLsb' 0 16) ∨
    (cmdOp a = 0b11#2 ∧ cmdOp b = 0b11#2)

/-- Words of 95_test_vectors.md section 2.1, with the operation, magnitude and sign it lists. -/
def Obligations.ListedWordsDecode : Prop :=
  decode 0x000012345#34 = .log2U16 0x2345#16 ∧
  decode 0x0FFFF0000#34 = .log2U16 0x0000#16 ∧
  decode 0x1FFFFFFFF#34 = .log2U32 0xFFFFFFFF#32 ∧
  decode 0x2FFFFFFFC#34 = .log2I32 0xFFFFFFFC#32 ∧
  decode 0x3DEADBEEF#34 = .reserved ∧
  (decode 0x2FFFFFFFC#34).magnitude = 4#32 ∧ (decode 0x2FFFFFFFC#34).sign = 1#1 ∧
  (decode 0x280000000#34).magnitude = 0x80000000#32 ∧ (decode 0x27FFFFFFF#34).sign = 0#1

/-- The assembler (30_encoding.md R49): a literal in its operand's range is encoded so that it decodes to
the same integer; a literal out of range is an error, not a truncation. -/
def Obligations.AssembledLiteralsDecode : Prop :=
  (∀ n : Int, 0 ≤ n → n ≤ 65535 →
    ∃ c u, assemble (.op .log2U16 n) = .ok c ∧ decode c = .log2U16 u ∧ (u.toNat : Int) = n ∧
      (cmdX c).extractLsb' 16 16 = 0#16) ∧
  (∀ n : Int, 0 ≤ n → n ≤ 4294967295 →
    ∃ c u, assemble (.op .log2U32 n) = .ok c ∧ decode c = .log2U32 u ∧ (u.toNat : Int) = n) ∧
  (∀ n : Int, -2147483648 ≤ n → n ≤ 2147483647 →
    ∃ c v, assemble (.op .log2I32 n) = .ok c ∧ decode c = .log2I32 v ∧ v.toInt = n) ∧
  ∀ l : SourceLine, l.wellFormed = false → assemble l = .error .outOfRange

/-- Lines of text that 30_encoding.md R49 and R50 spell out, with their command words.
How words are separated is the model's choice (log entry 15). -/
def Obligations.ListedLinesAssemble : Prop :=
  assembleLine "LOG2.U16 3" = .ok (some 0x000000003#34) ∧
  assembleLine "LOG2.U32 3" = .ok (some 0x100000003#34) ∧
  assembleLine "LOG2.I32 -4" = .ok (some 0x2FFFFFFFC#34) ∧
  assembleLine "log2_fixed_q5_27 0x3E8 ; a comment" = .ok (some 0x1000003E8#34) ∧
  assembleLine ".cmd 0x3_DEADBEEF" = .ok (some 0x3DEADBEEF#34) ∧
  assembleLine "LOG2.U16 65536" = .error .outOfRange

/-! Phase 1 -/

/-- 41_hsb_detector.md R69: the scan step of R68 is the masked test of the table, and the `W = 16` scan is
the last four steps of the `W = 32` scan. -/
def Obligations.ScanStepsTestTheMasks : Prop :=
  (∀ v y : Nat, v < 2 ^ 32 →
    scanStep 16 (v, y) = maskedScan 0xFFFF0000 16 (v, y) ∧
    scanStep 8 (v, y) = maskedScan 0x0000FF00 8 (v, y) ∧
    scanStep 4 (v, y) = maskedScan 0x000000F0 4 (v, y) ∧
    scanStep 2 (v, y) = maskedScan 0x0000000C 2 (v, y) ∧
    scanStep 1 (v, y) = maskedScan 0x00000002 1 (v, y)) ∧
  ∀ v y : Nat, v < 2 ^ 16 → scanLoop 5 (v, y) = scanLoop 4 (v, y)

/-- 41_hsb_detector.md R71, for every width `W = 2^s`. -/
def Obligations.DetectorIsFloorLog2 : Prop :=
  ∀ s x : Nat, 0 < x → x < 2 ^ 2 ^ s →
    hsb s x = Nat.log2 x ∧ 2 ^ hsb s x ≤ x ∧ x < 2 ^ (hsb s x + 1)

/-- 41_hsb_detector.md R72: the scan of zero hits nothing and leaves 0, as for the magnitude 1; `X` and
`ST` tell the two apart. -/
def Obligations.ZeroScansLikeOne : Prop :=
  (∀ n : Nat, scanLoop n (0, 0) = (0, 0)) ∧
  (∀ n : Nat, hsb n 0 = 0 ∧ hsb n 1 = 0) ∧
  ∀ (s : State) (op : BitVec 2) (neg : BitVec 1),
    (s.issue op 0#32 neg).x ≠ (s.issue op 1#32 neg).x ∧
    (s.issue op 0#32 neg).st = 1#2 ∧ (s.issue op 1#32 neg).st = 0#2

/-! Phase 2 -/

/-- 42_mantissa_recurrence.md R86. -/
def Obligations.MantissaStaysNormalised : Prop :=
  ∀ op : BitVec 2, op ≠ 0b11#2 → ∀ x : Nat, 0 < x → x < 2 ^ (paramsOf op).w → ∀ n : Nat,
    2 ^ ((paramsOf op).w - 1) ≤ (recurrence (paramsOf op) x n).1 ∧
    (recurrence (paramsOf op) x n).1 < 2 ^ (paramsOf op).w

/-- 42_mantissa_recurrence.md R87. -/
def Obligations.ProductNeverWraps : Prop :=
  (∀ w m : Nat, 1 ≤ w → m ≤ 2 ^ w - 1 → productPlusOffset w m < 2 ^ (2 * w)) ∧
  (∀ m : Nat, m ≤ 0xFFFF → productPlusOffset 16 m ≤ productPlusOffset 16 0xFFFF) ∧
  productPlusOffset 16 0xFFFF = 0xFFFE4001

/-- 42_mantissa_recurrence.md R88. -/
def Obligations.AccumulatorFits : Prop :=
  (∀ op : BitVec 2, op ≠ 0b11#2 → ∀ x : Nat, x < 2 ^ (paramsOf op).w →
    hsb (paramsOf op).s x ≤ (paramsOf op).w - 1 ∧
    (∀ n : Nat, (recurrence (paramsOf op) x n).2 < 2 ^ ((paramsOf op).s + n)) ∧
    log2Core (paramsOf op) x / 2 ^ (paramsOf op).f = hsb (paramsOf op).s x) ∧
  (∀ x : Nat, x < 2 ^ 16 → log2Core (paramsOf 0b00#2) x < 2 ^ 16) ∧
  (∀ x : Nat, x < 2 ^ 32 → log2Core (paramsOf 0b01#2) x < 2 ^ 32) ∧
  ∀ x : Nat, x < 2 ^ 32 → log2Core (paramsOf 0b10#2) x ≤ 32767

/-- 42_mantissa_recurrence.md R89. -/
def Obligations.PowersOfTwoAreExact : Prop :=
  ∀ op : BitVec 2, op ≠ 0b11#2 → ∀ k : Nat, k < (paramsOf op).w →
    log2Core (paramsOf op) (2 ^ k) = k <<< (paramsOf op).f ∧
    ∀ n : Nat, (recurrence (paramsOf op) (2 ^ k) n).1 = 2 ^ ((paramsOf op).w - 1)

/-- 42_mantissa_recurrence.md R90. -/
def Obligations.ZeroMagnitudeGivesZero : Prop :=
  ∀ op : BitVec 2, op ≠ 0b11#2 →
    productPlusOffset (paramsOf op).w 0 = 2 ^ ((paramsOf op).w - 2) ∧
    overflowBit (paramsOf op).w (productPlusOffset (paramsOf op).w 0) = false ∧
    (∀ n : Nat, recurrence (paramsOf op) 0 n = (0, 0)) ∧
    log2Core (paramsOf op) 0 = 0

/-- 42_mantissa_recurrence.md R84: the integer part on top, then the bits in the order in which the
iterations resolve them; truncation to the output width removes nothing. -/
def Obligations.ResultBitsAreTheTestedBits : Prop :=
  ∀ op : BitVec 2, op ≠ 0b11#2 → ∀ x : Nat, x < 2 ^ (paramsOf op).w →
    log2Core (paramsOf op) x / 2 ^ (paramsOf op).f = hsb (paramsOf op).s x ∧
    (∀ i : Nat, i < (paramsOf op).f →
      (log2Core (paramsOf op) x).testBit ((paramsOf op).f - 1 - i) =
        overflowBit (paramsOf op).w
          (productPlusOffset (paramsOf op).w (recurrence (paramsOf op) x i).1)) ∧
    log2Core (paramsOf op) x % 2 ^ (paramsOf op).o = log2Core (paramsOf op) x

/-- The kernel never decreases as its argument grows, for all three parameter sets; for the 32-bit ones
the spec leaves this as a proof obligation (44_log2_u32.md R100, 45_log2_i32.md R110). -/
def Obligations.KernelIsMonotone : Prop :=
  ∀ op : BitVec 2, op ≠ 0b11#2 → ∀ a b : Nat, a ≤ b → b < 2 ^ (paramsOf op).w →
    log2Core (paramsOf op) a ≤ log2Core (paramsOf op) b

/-- LOG2.I32 of a magnitude is the top of LOG2.U32 of it (95_test_vectors.md section 2.7). -/
def Obligations.SignedKernelIsPrefix : Prop :=
  ∀ x : Nat, log2Core (paramsOf 0b10#2) x = log2Core (paramsOf 0b01#2) x >>> 17

/-- The three written-out forms compute the kernel (43_log2_u16.md R91, 44_log2_u32.md R97,
45_log2_i32.md R102). -/
def Obligations.WrittenFormsComputeTheKernel : Prop :=
  (∀ u : Nat, u < 2 ^ 16 → writtenU16 u = log2Core (paramsOf 0b00#2) u) ∧
  (∀ u : Nat, u < 2 ^ 32 → writtenU32 u = log2Core (paramsOf 0b01#2) u) ∧
  ∀ u : Nat, u < 2 ^ 32 → writtenI32 u = log2Core (paramsOf 0b10#2) u

/-- An error bound for all three operations in units of the last fractional bit. 43_log2_u16.md R95 gives
`(-1.0672, +0.0419]` for LOG2.U16 by evaluation and leaves the other two open (R100, R110); the bound
here, -1.14 to 0.1, is the model's own and weaker for LOG2.U16. -/
def Obligations.KernelErrorIsBounded : Prop :=
  ∀ op : BitVec 2, op ≠ 0b11#2 → ∀ x : Nat, 0 < x → x < 2 ^ (paramsOf op).w →
    (-1.14 : ℝ) < (log2Core (paramsOf op) x : ℝ) - 2 ^ (paramsOf op).f * Real.logb 2 x ∧
    (log2Core (paramsOf op) x : ℝ) - 2 ^ (paramsOf op).f * Real.logb 2 x < 0.1

/-! The operations as functions of their operand -/

/-- 43_log2_u16.md R94. -/
def Obligations.U16IsMonotone : Prop :=
  ∀ a b : BitVec 16, a.toNat ≤ b.toNat → (closedU16 a).toNat ≤ (closedU16 b).toNat

/-- LOG2.I32 never decreases over the whole signed range (45_log2_i32.md R110, conflict C8 (c)). -/
def Obligations.I32IsMonotone : Prop :=
  ∀ a b : BitVec 32, a.toInt ≤ b.toInt → (closedI32 a).toInt ≤ (closedI32 b).toInt

/-- 43_log2_u16.md R96 and 44_log2_u32.md R101. -/
def Obligations.IntegerPartIsFloorLog2 : Prop :=
  (∀ u : BitVec 16, u ≠ 0#16 →
    ((closedU16 u).extractLsb' 12 4).toNat = Nat.log2 u.toNat ∧ Nat.log2 u.toNat ≤ 15) ∧
  ∀ u : BitVec 32, u ≠ 0#32 →
    ((closedU32 u).extractLsb' 27 5).toNat = Nat.log2 u.toNat ∧ Nat.log2 u.toNat ≤ 31

/-- 45_log2_i32.md R103. -/
def Obligations.SignAndMagnitudeOfOperand : Prop :=
  ∀ v : BitVec 32,
    (signI32 v = 1#1 ↔ v.toInt < 0) ∧ (magnitudeI32 v).toNat = v.toInt.natAbs

/-- 45_log2_i32.md R104. -/
def Obligations.MostNegativeOperand : Prop :=
  magnitudeI32 0x80000000#32 = 0x80000000#32 ∧
  hsb 5 (2 ^ 31) = 31 ∧
  log2Core (paramsOf 0b10#2) (2 ^ 31) = 31744 ∧
  (closedI32 0x80000000#32).toInt = -31744 ∧
  (Instr.log2I32 0x80000000#32).result = 0xFFFF8400#32 ∧
  (Instr.log2I32 0x80000000#32).condition = .ok

/-- 45_log2_i32.md R106. -/
def Obligations.SignedResultIsSymmetric : Prop :=
  ∀ v : BitVec 32, v ≠ 0x80000000#32 → (closedI32 (-v)).toInt = -(closedI32 v).toInt

/-- The range of LOG2.I32 and its extremes (45_log2_i32.md R110). -/
def Obligations.SignedResultRange : Prop :=
  (∀ v : BitVec 32, -31744 ≤ (closedI32 v).toInt ∧ (closedI32 v).toInt ≤ 31743) ∧
  (closedI32 0x7FFFFFFF#32).toInt = 31743 ∧ (closedI32 0x80000000#32).toInt = -31744

/-- 30_encoding.md R44: each extension to 32 bits keeps the value of the result. -/
def Obligations.ResultFieldKeepsTheValue : Prop :=
  (∀ u : BitVec 16, (Instr.log2U16 u).result.toNat = (closedU16 u).toNat ∧
    (Instr.log2U16 u).result.extractLsb' 16 16 = 0#16 ∧
    (Instr.log2U16 u).result.extractLsb' 0 16 = closedU16 u) ∧
  (∀ u : BitVec 32, (Instr.log2U32 u).result = closedU32 u) ∧
  (∀ v : BitVec 32, (Instr.log2I32 v).result.toInt = (closedI32 v).toInt ∧
    (∀ k : Nat, 16 ≤ k → k < 32 →
      (Instr.log2I32 v).result.getLsbD k = (closedI32 v).getLsbD 15) ∧
    (Instr.log2I32 v).result.extractLsb' 0 16 = closedI32 v) ∧
  Instr.reserved.result = 0#32

/-- Responses listed in 95_test_vectors.md sections 2.5 to 2.8. -/
def Obligations.ListedResponses : Prop :=
  (decode 0x000001761#34).response = 0x00000C8C0#34 ∧
  (decode 0x000008001#34).response = 0x00000F000#34 ∧
  (decode 0x0FFFF0000#34).response = 0x100000000#34 ∧
  (decode 0x1DEADBEEF#34).response = 0x0FE63FB98#34 ∧
  (decode 0x2FFFFFFFD#34).response = 0x0FFFFF9A9#34 ∧
  (decode 0x2FFFFFFFF#34).response = 0x000000000#34 ∧
  (decode 0x300000000#34).response = 0x200000000#34

/-! What the instructions do to the block -/

/-- LOG2.U16 on an idle block (43_log2_u16.md R91): with the 18 core steps it takes before the host's next
edge, `exec` answers the state with the response ready and every register as the rules give it.
How many core steps come before the host's next edge (`coreRun`) is the model's
(log entry 5). -/
def Obligations.Log2U16Completes : Prop :=
  ∀ (u : BitVec 16) (s : State), s.ph = .idle → 18 ≤ s.edge.coreRun →
    exec (.log2U16 u) s = .next { s with
      ph := .done
      opr := 0b00#2
      neg := 0#1
      x := u.setWidth 32
      v := BitVec.ofNat 32 (scanLoop 4 (u.toNat, 0)).1
      h := 0#5
      y := BitVec.ofNat 32 (log2Core (paramsOf 0b00#2) u.toNat)
      m := BitVec.ofNat 64 (kernel (paramsOf 0b00#2) u.toNat).1
      cnt := 12#5
      st := if u = 0#16 then 1#2 else 0#2
      res := (BitVec.ofNat 16 (log2Core (paramsOf 0b00#2) u.toNat)).setWidth 32 }

/-- LOG2.U32 on an idle block (44_log2_u32.md R97), with its 34 core steps.
`coreRun` is the model's (log entry 5). -/
def Obligations.Log2U32Completes : Prop :=
  ∀ (u : BitVec 32) (s : State), s.ph = .idle → 34 ≤ s.edge.coreRun →
    exec (.log2U32 u) s = .next { s with
      ph := .done
      opr := 0b01#2
      neg := 0#1
      x := u
      v := BitVec.ofNat 32 (scanLoop 5 (u.toNat, 0)).1
      h := 0#5
      y := BitVec.ofNat 32 (log2Core (paramsOf 0b01#2) u.toNat)
      m := BitVec.ofNat 64 (kernel (paramsOf 0b01#2) u.toNat).1
      cnt := 27#5
      st := if u = 0#32 then 1#2 else 0#2
      res := BitVec.ofNat 32 (log2Core (paramsOf 0b01#2) u.toNat) }

/-- LOG2.I32 on an idle block (45_log2_i32.md R102), with its 17 core steps: sign and magnitude, the
unsigned kernel, and the negation of the 16-bit result of a negative operand.
`coreRun` is the model's (log entry 5). -/
def Obligations.Log2I32Completes : Prop :=
  ∀ (v : BitVec 32) (s : State), s.ph = .idle → 17 ≤ s.edge.coreRun →
    exec (.log2I32 v) s = .next { s with
      ph := .done
      opr := 0b10#2
      neg := v.extractLsb' 31 1
      x := if v.toInt < 0 then -v else v
      v := BitVec.ofNat 32 (scanLoop 5 (v.toInt.natAbs, 0)).1
      h := 0#5
      y := BitVec.ofNat 32 (log2Core (paramsOf 0b10#2) v.toInt.natAbs)
      m := BitVec.ofNat 64 (kernel (paramsOf 0b10#2) v.toInt.natAbs).1
      cnt := 10#5
      st := if v = 0#32 then 1#2 else 0#2
      res := BitVec.signExtend 32
        (if v.toInt < 0 then -(BitVec.ofNat 16 (log2Core (paramsOf 0b10#2) v.toInt.natAbs))
         else BitVec.ofNat 16 (log2Core (paramsOf 0b10#2) v.toInt.natAbs)) }

/-- 60_exceptions.md R113: every command word with `op = 0b11`, whatever its `x`, on an idle block. -/
def Obligations.ReservedCommandCompletes : Prop :=
  ∀ (c : CmdWord) (s : State), cmdOp c = 0b11#2 → s.ph = .idle →
    exec (decode c) s = .next { s with ph := .done, opr := 0b11#2, st := 2#2, res := 0#32 }

/-- 60_exceptions.md R112: the zero operand, seen in the command word.
How many core steps come before the host's next edge (`coreRun`) is the model's (log entry 5). -/
def Obligations.ZeroOperandIsReported : Prop :=
  (∀ (c : CmdWord) (s t : State), s.ph = .idle → exec (decode c) s = .next t →
    (cmdOp c = 0b00#2 → (t.st = 1#2 ↔ (cmdX c).extractLsb' 0 16 = 0#16)) ∧
    ((cmdOp c = 0b01#2 ∨ cmdOp c = 0b10#2) → (t.st = 1#2 ↔ cmdX c = 0#32))) ∧
  ∀ (c : CmdWord) (s : State), s.ph = .idle → (decode c).coreStepCount ≤ s.edge.coreRun →
    (cmdOp c = 0b00#2 ∧ (cmdX c).extractLsb' 0 16 = 0#16 ∨
      (cmdOp c = 0b01#2 ∨ cmdOp c = 0b10#2) ∧ cmdX c = 0#32) →
    ∃ t, exec (decode c) s = .next t ∧ t.ph = .done ∧ t.st = 1#2 ∧ t.res = 0#32

/-- The frame of an accepted command, wherever the host's next edge cuts it: nothing of the host's fields
changes; the reserved command leaves `NEG`, `X`, `V`, `H`, `Y`, `M`, `CNT`; one of the three operations
keeps what it latched in `OPR`, `NEG`, `X`, `ST` and leaves `RES` before `FIN`, `M` and `CNT` before `NORM`
(40_sequencer.md R55 to R59).
`coreRun` and the host's fields are the model's (log entries 4, 5, 7). -/
def Obligations.CommandFrame : Prop :=
  ∀ (i : Instr) (s t : State), s.ph = .idle → exec i s = .next t →
    t.host = s.host ∧ t.inFlight = s.inFlight ∧ t.answered = s.answered ∧ t.issues = s.issues ∧
    t.takes = s.takes ∧ t.tick = s.tick ∧
    t.opr = i.opSelect ∧ t.st = i.condition.code ∧
    (i = .reserved → t.neg = s.neg ∧ t.x = s.x ∧ t.v = s.v ∧ t.h = s.h ∧ t.y = s.y ∧ t.m = s.m ∧
      t.cnt = s.cnt) ∧
    (i ≠ .reserved → t.neg = i.sign ∧ t.x = i.magnitude ∧
      (s.edge.coreRun < i.coreStepCount → t.res = s.res) ∧
      (s.edge.coreRun ≤ (paramsOf i.opSelect).s → t.m = s.m ∧ t.cnt = s.cnt))

/-- 40_sequencer.md R61: the phase after every number of core steps, a function of the operation alone. -/
def Obligations.StepCountsDependOnOpOnly : Prop :=
  (∀ (i : Instr) (s : State), i ≠ .reserved → ∀ n : Nat,
    (State.coreSteps n (s.issued i)).ph =
      if n < (paramsOf i.opSelect).s then .scan
      else if n = (paramsOf i.opSelect).s then .norm
      else if n ≤ (paramsOf i.opSelect).s + (paramsOf i.opSelect).f then .iter
      else if n = (paramsOf i.opSelect).s + (paramsOf i.opSelect).f + 1 then .fin
      else .done) ∧
  (∀ s : State, (s.issued .reserved).ph = .done) ∧
  (∀ u v w, (Instr.log2U16 u).coreStepCount = 4 + 1 + 12 + 1 ∧
    (Instr.log2U32 v).coreStepCount = 5 + 1 + 27 + 1 ∧ (Instr.log2I32 w).coreStepCount = 5 + 1 + 10 + 1) ∧
  Instr.reserved.coreStepCount = 0

/-- No operation reads a value an earlier one wrote (10_state.md R11): the same command issued in any two
idle states leaves the same values, after any number of core steps, in every register it has written.
`coreRun` is the model's (log entry 5). -/
def Obligations.CommandsIgnoreOldRegisters : Prop :=
  ∀ (i : Instr) (a b : State), a.ph = .idle → b.ph = .idle → a.edge.coreRun = b.edge.coreRun →
    ∃ t u, exec i a = .next t ∧ exec i b = .next u ∧
      t.ph = u.ph ∧ t.opr = u.opr ∧ t.st = u.st ∧
      (i ≠ .reserved → t.neg = u.neg ∧ t.x = u.x ∧ t.v = u.v ∧ t.h = u.h ∧ t.y = u.y ∧
        (t.ph ≠ .scan → t.ph ≠ .norm → t.m = u.m ∧ t.cnt = u.cnt)) ∧
      (t.ph = .done → t.res = u.res)

/-! The steps of the sequencer -/

/-- 40_sequencer.md R55 at the host's next edge: with no core step after it, an accepted command leaves
exactly what `ISSUE` writes.
`coreRun` is the model's (log entry 5). -/
def Obligations.IssueWritesItsRegisters : Prop :=
  ∀ s : State, s.ph = .idle → s.edge.coreRun = 0 →
    (∀ u : BitVec 16, exec (.log2U16 u) s = .next { s with
      opr := 0b00#2, neg := 0#1, x := u.setWidth 32, v := u.setWidth 32, y := 0#32, h := 8#5
      st := if u = 0#16 then 1#2 else 0#2, ph := .scan }) ∧
    (∀ u : BitVec 32, exec (.log2U32 u) s = .next { s with
      opr := 0b01#2, neg := 0#1, x := u, v := u, y := 0#32, h := 16#5
      st := if u = 0#32 then 1#2 else 0#2, ph := .scan }) ∧
    (∀ v : BitVec 32, exec (.log2I32 v) s = .next { s with
      opr := 0b10#2, neg := v.extractLsb' 31 1
      x := if v.extractLsb' 31 1 = 1#1 then -v else v
      v := if v.extractLsb' 31 1 = 1#1 then -v else v
      y := 0#32, h := 16#5
      st := if v = 0#32 then 1#2 else 0#2, ph := .scan }) ∧
    exec .reserved s = .next { s with opr := 0b11#2, st := 2#2, res := 0#32, ph := .done }

/-- 40_sequencer.md R56 as a step of the block, on the registers as bit vectors; everything else stays.
`host`, `tick` and `coreRun` are the model's (log entries 3, 4, 5). R56 gives the step for an `H` of 16, 8,
4, 2 or 1; that an `H` of another value, which no run reaches, follows the same text is the model's
(log entry 8). -/
def Obligations.ScanStepOfTheBlock : Prop :=
  ∀ s : State, s.ph = .scan → s.edge.rst = false → s.edge.coreRun = 0 →
    step s = .next { s with
      y := if s.v.extractLsb' s.h.toNat s.h.toNat ≠ 0 then s.y + s.h.setWidth 32 else s.y
      v := if s.v.extractLsb' s.h.toNat s.h.toNat ≠ 0 then s.v >>> s.h.toNat else s.v
      h := s.h >>> 1
      ph := if s.h = 1#5 then .norm else .scan
      host := s.host.tail
      tick := s.tick + 1 }

/-- 40_sequencer.md R57 as a step of the block.
`host`, `tick` and `coreRun` are the model's (log entries 3, 4, 5). With `OPR = 0b11`, which no run reaches
in `NORM`, `paramsOf` gives the model's free parameters (log entry 8). -/
def Obligations.NormStepOfTheBlock : Prop :=
  ∀ s : State, s.ph = .norm → s.edge.rst = false → s.edge.coreRun = 0 →
    s.y.toNat < (paramsOf s.opr).w →
    step s = .next { s with
      m := s.x.setWidth 64 <<< ((paramsOf s.opr).w - 1 - s.y.toNat)
      cnt := 0#5
      ph := .iter
      host := s.host.tail
      tick := s.tick + 1 }

/-- 40_sequencer.md R58 as a step of the block, on the registers as bit vectors, for both working
widths.
`host`, `tick` and `coreRun` are the model's (log entries 3, 4, 5). -/
def Obligations.IterStepOfTheBlock : Prop :=
  ∀ s : State, s.ph = .iter → s.edge.rst = false → s.edge.coreRun = 0 → s.opr ≠ 0b11#2 →
    ∀ p : Nat, p = (s.m.toNat % 2 ^ (paramsOf s.opr).w) ^ 2 + 2 ^ ((paramsOf s.opr).w - 2) →
    step s = .next { s with
      y := (s.y <<< 1) ||| (BitVec.ofBool (p.testBit (2 * (paramsOf s.opr).w - 1))).setWidth 32
      m := if p.testBit (2 * (paramsOf s.opr).w - 1) then BitVec.ofNat 64 (p / 2 ^ (paramsOf s.opr).w)
        else BitVec.ofNat 64 (p / 2 ^ ((paramsOf s.opr).w - 1))
      cnt := s.cnt + 1#5
      ph := if s.cnt.toNat + 1 = (paramsOf s.opr).f then .fin else .iter
      host := s.host.tail
      tick := s.tick + 1 }

/-- 40_sequencer.md R59 as a step of the block: the result of each of the three operations.
`host` and `tick` are the model's (log entries 3, 4). -/
def Obligations.FinStepOfTheBlock : Prop :=
  ∀ s : State, s.ph = .fin → s.edge.rst = false → s.opr ≠ 0b11#2 →
    step s = .next { s with
      res :=
        if s.opr = 0b00#2 then (s.y.setWidth 16).setWidth 32
        else if s.opr = 0b01#2 then s.y
        else if s.neg = 1#1 then (-(s.y.setWidth 16)).signExtend 32
        else (s.y.setWidth 16).signExtend 32
      ph := .done
      host := s.host.tail
      tick := s.tick + 1 }

/-- 40_sequencer.md R60 as a step of the block.
The host's record is the model's (log entry 7), so are `host` and `tick`
(log entries 3, 4). -/
def Obligations.TakeDeliversTheResponse : Prop :=
  ∀ (s : State) (c : CmdWord), s.ph = .done → s.edge.rst = false → s.edge.rspReady = true →
    s.inFlight = some c →
    step s = .next { s with
      ph := .idle
      inFlight := none
      answered := s.answered ++ [{ cmd := c, rsp := s.st ++ s.res }]
      takes := s.takes + 1
      host := s.host.tail
      tick := s.tick + 1 }

/-- The response is held while the host does not take it (20_memory.md R34, 70_reset_and_hazards.md
R134).
`host` and `tick` are the model's (log entries 3, 4). -/
def Obligations.ResponseIsHeld : Prop :=
  ∀ s : State, s.ph = .done → s.edge.rst = false → s.edge.rspReady = false →
    step s = .next { s with host := s.host.tail, tick := s.tick + 1 } ∧
    s.cmdReady = false ∧ s.rspValid = true ∧ s.rspStatus = s.st ∧ s.rspResult = s.res

/-- `RESET` in every phase, before everything else at its edge (70_reset_and_hazards.md R127, R128): the
block is idle, no response is recorded for the command in flight.
The host's fields are the model's (log entries 4, 7); the other registers are free
values (log entry 2). -/
def Obligations.ResetAbandonsTheOperation : Prop :=
  ∀ s : State, s.edge.rst = true →
    ∃ t, step s = .next t ∧ t.ph = .idle ∧ t.inFlight = none ∧ t.answered = s.answered ∧
      t.issues = s.issues ∧ t.takes = s.takes ∧ t.host = s.host.tail

/-- The output signals while `rst = 0` (30_encoding.md R52). -/
def Obligations.OutputsFollowThePhase : Prop :=
  ∀ s : State, s.edge.rst = false →
    (s.cmdReady = true ↔ s.ph = .idle) ∧ (s.rspValid = true ↔ s.ph = .done) ∧
    (s.rspValid = true → makeRsp s.rspStatus s.rspResult = s.response)

/-- 40_sequencer.md R62: a command offered while the block is not idle, and `rsp_ready` while no response
is there, have no effect; the core never waits.
What `exec` alone does in a busy block is log entry 12; `host` and
`coreRun` are the model's (log entries 4, 5). -/
def Obligations.NothingElseStepsTheBlock : Prop :=
  (∀ (s : State) (e f : Edge) (es : List Edge), s.ph ≠ .idle →
    e.rst = f.rst → e.rspReady = f.rspReady → e.coreRun = f.coreRun →
    step { s with host := e :: es } = step { s with host := f :: es }) ∧
  (∀ (i : Instr) (s : State), s.ph ≠ .idle → exec i s = .next s) ∧
  (∀ (s : State) (e f : Edge) (es : List Edge), s.ph ≠ .done →
    e.rst = f.rst → e.cmdValid = f.cmdValid → e.cmdOp = f.cmdOp → e.cmdX = f.cmdX →
    e.coreRun = f.coreRun →
    step { s with host := e :: es } = step { s with host := f :: es }) ∧
  (∀ s : State, s.ph = .idle → s.edge.rst = false → s.edge.cmdValid = false →
    step s = .next s.advance) ∧
  ∀ s : State, s.ph ≠ .idle → s.ph ≠ .done → s.edge.rst = false →
    step s = .next (State.coreSteps s.edge.coreRun s.coreStep).advance

/-- One step that lets the core run `n + 1` further steps leaves the registers that two steps leave, the
first with none and the second with `n` (40_sequencer.md R64, D27).
`coreRun` and the host's fields are the model's (log entries 4, 5, 7). -/
def Obligations.CoarseStepIsFineSteps : Prop :=
  ∀ (s : State) (e : Edge) (es : List Edge) (n : Nat), s.ph ≠ .idle → s.ph ≠ .done → e.rst = false →
    ∃ t u v, step { s with host := { e with coreRun := n + 1 } :: es } = .next t ∧
      step { s with host := { e with coreRun := 0 } :: { Edge.quiet with coreRun := n } :: es } = .next u ∧
      step u = .next v ∧ v.regs = t.regs ∧ v.host = t.host ∧ v.answered = t.answered ∧
      v.issues = t.issues ∧ v.takes = t.takes

/-! Whole-machine statements -/

/-- A step runs the decoded instruction: at an edge where a command is accepted, the step is `exec` of
the instruction the word decodes to, with the host's record and its next edge.
The host's fields are the model's (log entries 3, 4, 7). -/
def Obligations.StepRunsTheOfferedCommand : Prop :=
  ∀ s : State, s.edge.rst = false → s.ph = .idle → s.edge.cmdValid = true →
    ∀ t : State, exec (decode s.edge.cmd) s = .next t →
      step s = .next { t with
        inFlight := some s.edge.cmd
        issues := t.issues + 1
        host := t.host.tail
        tick := t.tick + 1 }

/-- A command word placed by `withFetchWord` runs at the very next step, whatever the state was, and its
response is then the one the word has.
How a word is placed is the model's (log entry 10). -/
def Obligations.PlacedWordRunsNext : Prop :=
  ∀ (s : State) (w : Nat), w < 2 ^ 34 →
    ∃ i t, decodeTableWord 34 w = some i ∧ step (s.withFetchWord 34 w) = .next t ∧
      t.ph = .done ∧ t.response = i.response ∧ t.host = s.host

/-- An offered command and the `TAKE` after it, from any idle state: the host has recorded exactly this
command with the response its rule gives (20_memory.md R36, 40_sequencer.md R65,
70_reset_and_hazards.md R136).
The host's fields and `coreRun` are the model's (log entries
4, 5, 7). -/
def Obligations.ExchangeAnswersTheCommand : Prop :=
  ∀ (s : State) (c : CmdWord) (n : Nat) (es : List Edge), s.ph = .idle →
    s.host = Edge.offer c n :: Edge.take :: es → (decode c).coreStepCount ≤ n →
    ∃ t u, step s = .next t ∧ step t = .next u ∧ u.ph = .idle ∧ u.inFlight = none ∧ u.host = es ∧
      u.answered = s.answered ++ [{ cmd := c, rsp := (decode c).response }] ∧
      u.issues = s.issues + 1 ∧ u.takes = s.takes + 1

/-- Every step keeps the block and its host in agreement, so every response ever taken is the one its
command has (10_state.md R11, 20_memory.md R36).
The host's record is the model's (log entry 7). -/
def Obligations.StepKeepsTracks : Prop :=
  ∀ s t : State, s.Tracks → step s = .next t → t.Tracks

/-- The invariant of `StepKeepsTracks` holds right after reset.
The registers' values at reset are log entry 1's; the statement does not rest on them. -/
def Obligations.ResetTracks : Prop := State.reset.Tracks

/-- Every step keeps the width bounds of 10_state.md R24 in their inductive form. -/
def Obligations.StepKeepsBounded : Prop :=
  ∀ s t : State, s.Bounded → step s = .next t → t.Bounded

/-- The invariant of `StepKeepsBounded` holds right after reset.
The registers' values at reset are log entry 1's; the statement does not rest on them. -/
def Obligations.ResetBounded : Prop := State.reset.Bounded

/-- The inductive form gives the bounds 10_state.md R24 lists, `CNT <= F` where the operation has written
`CNT`. -/
def Obligations.BoundedGivesTheWidths : Prop :=
  ∀ s : State, s.Bounded → s.ph ≠ .idle → s.ph ≠ .done →
    s.x.toNat < 2 ^ (paramsOf s.opr).w ∧ s.v.toNat < 2 ^ (paramsOf s.opr).w ∧
    s.y.toNat < 2 ^ (paramsOf s.opr).o ∧
    (s.ph = .scan → s.v.toNat < 2 ^ (2 * s.h.toNat)) ∧
    (s.ph = .iter ∨ s.ph = .fin →
      s.cnt.toNat ≤ (paramsOf s.opr).f ∧
      (s.x ≠ 0#32 → 2 ^ ((paramsOf s.opr).w - 1) ≤ s.m.toNat) ∧
      s.m.toNat < 2 ^ (paramsOf s.opr).w ∧ (s.x = 0#32 → s.m = 0#64))

/-- The status of a command in flight or answered: code 3 never, `ILLEGAL_OP` exactly with `OPR = 0b11`,
`ZERO_INPUT` exactly with a zero magnitude (30_encoding.md R47, 60_exceptions.md R114, R116). -/
def Obligations.StatusNamesOneCondition : Prop :=
  (∀ s : State, s.Tracks → s.ph ≠ .idle →
    s.st ≠ 3#2 ∧ (s.st = 2#2 ↔ s.opr = 0b11#2) ∧
    (s.opr ≠ 0b11#2 → (s.st = 1#2 ↔ s.x = 0#32))) ∧
  ∀ s : State, s.Tracks → ∀ e ∈ s.answered, rspStatusField e.rsp ≠ 3#2

/-- "Nothing else can fail" (60_exceptions.md R119): `exec` and `step` answer a next state in every
state. -/
def Obligations.NothingStopsTheBlock : Prop :=
  (∀ (i : Instr) (s : State), ∃ t, exec i s = .next t) ∧ ∀ s : State, ∃ t, step s = .next t

/-! Programs -/

/-- A step counts an `ISSUE` exactly at an edge that accepts a command and a `TAKE` exactly at an edge where
the host takes a response, in every state (40_sequencer.md R55, R60, R65, 70_reset_and_hazards.md R127).
The two counts are the model's (log entry 7). -/
def Obligations.StepCountsIssuesAndTakes : Prop :=
  ∀ s t : State, step s = .next t →
    t.issues =
      (if s.edge.rst = false ∧ s.ph = .idle ∧ s.edge.cmdValid = true then s.issues + 1 else s.issues) ∧
    t.takes =
      (if s.edge.rst = false ∧ s.ph = .done ∧ s.edge.rspReady = true then s.takes + 1 else s.takes)

/-- Every step of a block that tracks its command keeps the host's counts in agreement with its record
(40_sequencer.md R65, 70_reset_and_hazards.md R134); that it goes on tracking is `StepKeepsTracks`.
The record and the counts are the model's (log entry 7). -/
def Obligations.StepKeepsCounted : Prop :=
  ∀ s t : State, s.Tracks → s.Counted → step s = .next t → t.Counted

/-- The counts agree with the record right after reset and where a program's run starts, and the block
tracks its command there if it did before (10_state.md R22, 40_sequencer.md R65).
The record and the counts are the model's (log entry 7). -/
def Obligations.RunsStartCounted : Prop :=
  State.reset.Counted ∧
  ∀ (s p : State) (cs : List CmdWord), s.withProgram cs = some p →
    p.Counted ∧ (s.Tracks → p.Tracks)

/-- The run of a program of any length (30_encoding.md R49, 40_sequencer.md R65): it starts exactly where
`PH = IDLE`, whatever earlier runs left; it has not ended before its last `TAKE`; and it ends with the
responses of its commands, in order, and `PH = IDLE`.
The host's plan, counts and record and the core steps in one step are the model's (log entries 4, 5, 7). -/
def Obligations.ProgramEndsWithItsResponses : Prop :=
  ∀ (s : State) (cs : List CmdWord),
    (s.ph ≠ .idle → s.withProgram cs = none) ∧
    (s.ph = .idle → ∃ p, s.withProgram cs = some p ∧
      (∀ (k : Nat) (u : State), k < 2 * cs.length → runFor k p = .next u →
        u.ended cs.length = false) ∧
      ∃ t : State, runFor (2 * cs.length) p = .next t ∧ t.ended cs.length = true ∧
        t.ph = .idle ∧ t.responses = cs.map fun c => (decode c).response)
end

