-- ==== Sys2Proof/Laws/Datapath.lean ====
section
/-! SUPPORT. Small lemmas of the datapath: the parameters of the three operations, one scan step, one
iteration. -/

namespace Sys2Proof.Machine

@[simp] theorem paramsOf_u16 : paramsOf 0b00#2 = { w := 16, s := 4, f := 12, o := 16 } := by
  simp [paramsOf]

@[simp] theorem paramsOf_u32 : paramsOf 0b01#2 = { w := 32, s := 5, f := 27, o := 32 } := by
  simp [paramsOf]

@[simp] theorem paramsOf_i32 : paramsOf 0b10#2 = { w := 32, s := 5, f := 10, o := 16 } := by
  simp [paramsOf]

/-- A statement about the operation selects other than the reserved one has three cases. -/
theorem opSelect_cases {op : BitVec 2} (h : op ≠ 0b11#2) : op = 0b00#2 ∨ op = 0b01#2 ∨ op = 0b10#2 := by
  revert h
  revert op
  decide

theorem scanHit_iff {h v : Nat} : scanHit h v = true ↔ (v / 2 ^ h) % 2 ^ h ≠ 0 := by
  simp [scanHit, Nat.shiftRight_eq_div_pow]

/-- Below `2^(2h)` the tested field is all that lies at or above position `h` (41_hsb_detector.md
R71). -/
theorem scanHit_iff_le {h v : Nat} (hv : v < 2 ^ (2 * h)) : scanHit h v = true ↔ 2 ^ h ≤ v := by
  have hp : 0 < 2 ^ h := Nat.two_pow_pos h
  have hlt : v / 2 ^ h < 2 ^ h := by
    rw [Nat.div_lt_iff_lt_mul hp, ← Nat.pow_add]
    simpa [Nat.two_mul] using hv
  rw [scanHit_iff, Nat.mod_eq_of_lt hlt, Nat.ne_zero_iff_zero_lt, Nat.div_pos_iff]
  simp [hp]

theorem scanStep_hit {h v y : Nat} (hit : scanHit h v = true) : scanStep h (v, y) = (v >>> h, y + h) := by
  simp [scanStep, hit]

theorem scanStep_miss {h v y : Nat} (miss : scanHit h v = false) : scanStep h (v, y) = (v, y) := by
  simp [scanStep, miss]

@[simp] theorem scanLoop_zero (vy : Nat × Nat) : scanLoop 0 vy = vy := rfl

theorem scanLoop_succ (n : Nat) (vy : Nat × Nat) :
    scanLoop (n + 1) vy = scanLoop n (scanStep (2 ^ n) vy) := rfl

@[simp] theorem iterLoop_zero (w : Nat) (my : Nat × Nat) : iterLoop w 0 my = my := rfl

theorem iterLoop_succ (w n : Nat) (my : Nat × Nat) :
    iterLoop w (n + 1) my = iterLoop w n (iterStep w my) := rfl

theorem iterLoop_add (w a b : Nat) (my : Nat × Nat) :
    iterLoop w (a + b) my = iterLoop w b (iterLoop w a my) := by
  induction a generalizing my with
  | zero => simp
  | succ a ih => rw [Nat.succ_add, iterLoop_succ, ih, iterLoop_succ]

theorem insertBit_eq (y : Nat) (b : Bool) : insertBit y b = 2 * y + b.toNat := by
  cases b
  · simp [insertBit, Nat.shiftLeft_eq, Nat.mul_comm]
  · have h := Nat.two_pow_add_eq_or_of_lt (i := 1) (b := 1) (by decide) y
    simp only [insertBit, Nat.shiftLeft_eq, Bool.toNat_true]
    rw [Nat.mul_comm, ← h]

theorem offset_pos (w : Nat) : 0 < offset w := Nat.two_pow_pos _

end Sys2Proof.Machine
end

