-- ==== Sys2Proof/Laws/Decode.lean ====
section
/-! SUPPORT. The fields of a made command word, and the four cases of the decoder. -/

namespace Sys2Proof

theorem makeCmd_getLsbD (op : BitVec 2) (x : BitVec 32) (i : Nat) :
    (makeCmd op x).getLsbD i = if i < 32 then x.getLsbD i else op.getLsbD (i - 32) := by
  refine (BitVec.getLsbD_append (x := op) (y := x) (i := i)).trans ?_
  cases Decidable.em (i < 32) <;> simp [*]

@[simp] theorem cmdOp_makeCmd (op : BitVec 2) (x : BitVec 32) : cmdOp (makeCmd op x) = op := by
  ext i hi
  simp [cmdOp, makeCmd_getLsbD, hi]

@[simp] theorem cmdX_makeCmd (op : BitVec 2) (x : BitVec 32) : cmdX (makeCmd op x) = x := by
  ext i hi
  simp [cmdX, makeCmd_getLsbD, hi]

/-- A command word is its two fields (30_encoding.md R40). -/
@[simp] theorem makeCmd_fields (c : CmdWord) : makeCmd (cmdOp c) (cmdX c) = c := by
  ext i hi
  rw [← BitVec.getLsbD_eq_getElem, makeCmd_getLsbD]
  split
  · simp [cmdX, *]
  · rename_i h
    simp only [cmdOp, BitVec.getLsbD_extractLsb', show 32 + (i - 32) = i by omega,
      BitVec.getLsbD_eq_getElem hi, show i - 32 < 2 by omega, decide_true, Bool.true_and]

theorem decode_u16 {c : CmdWord} (h : cmdOp c = 0b00#2) :
    decode c = .log2U16 ((cmdX c).extractLsb' 0 16) := by
  simp [decode, h]

theorem decode_u32 {c : CmdWord} (h : cmdOp c = 0b01#2) : decode c = .log2U32 (cmdX c) := by
  simp [decode, h]

theorem decode_i32 {c : CmdWord} (h : cmdOp c = 0b10#2) : decode c = .log2I32 (cmdX c) := by
  simp [decode, h]

theorem decode_reserved {c : CmdWord} (h : cmdOp c = 0b11#2) : decode c = .reserved := by
  simp [decode, h]

end Sys2Proof
end

