-- ==== Sys2Proof/Laws/State.lean ====
section
/-! SUPPORT. What the updates of the host's fields and of the status, `TAKE` and `RESET` leave in
each field. -/

namespace Sys2Proof.Machine

variable (s : State) (c : CmdWord) (k : Condition)

@[simp] theorem State.advance_ph : s.advance.ph = s.ph := rfl
@[simp] theorem State.advance_opr : s.advance.opr = s.opr := rfl
@[simp] theorem State.advance_neg : s.advance.neg = s.neg := rfl
@[simp] theorem State.advance_x : s.advance.x = s.x := rfl
@[simp] theorem State.advance_v : s.advance.v = s.v := rfl
@[simp] theorem State.advance_h : s.advance.h = s.h := rfl
@[simp] theorem State.advance_y : s.advance.y = s.y := rfl
@[simp] theorem State.advance_m : s.advance.m = s.m := rfl
@[simp] theorem State.advance_cnt : s.advance.cnt = s.cnt := rfl
@[simp] theorem State.advance_st : s.advance.st = s.st := rfl
@[simp] theorem State.advance_res : s.advance.res = s.res := rfl
@[simp] theorem State.advance_host : s.advance.host = s.host.tail := rfl
@[simp] theorem State.advance_inFlight : s.advance.inFlight = s.inFlight := rfl
@[simp] theorem State.advance_answered : s.advance.answered = s.answered := rfl
@[simp] theorem State.advance_issues : s.advance.issues = s.issues := rfl
@[simp] theorem State.advance_takes : s.advance.takes = s.takes := rfl
@[simp] theorem State.advance_tick : s.advance.tick = s.tick + 1 := rfl

@[simp] theorem State.note_ph : (s.note c).ph = s.ph := rfl
@[simp] theorem State.note_opr : (s.note c).opr = s.opr := rfl
@[simp] theorem State.note_neg : (s.note c).neg = s.neg := rfl
@[simp] theorem State.note_x : (s.note c).x = s.x := rfl
@[simp] theorem State.note_v : (s.note c).v = s.v := rfl
@[simp] theorem State.note_h : (s.note c).h = s.h := rfl
@[simp] theorem State.note_y : (s.note c).y = s.y := rfl
@[simp] theorem State.note_m : (s.note c).m = s.m := rfl
@[simp] theorem State.note_cnt : (s.note c).cnt = s.cnt := rfl
@[simp] theorem State.note_st : (s.note c).st = s.st := rfl
@[simp] theorem State.note_res : (s.note c).res = s.res := rfl
@[simp] theorem State.note_host : (s.note c).host = s.host := rfl
@[simp] theorem State.note_inFlight : (s.note c).inFlight = some c := rfl
@[simp] theorem State.note_answered : (s.note c).answered = s.answered := rfl
@[simp] theorem State.note_issues : (s.note c).issues = s.issues + 1 := rfl
@[simp] theorem State.note_takes : (s.note c).takes = s.takes := rfl
@[simp] theorem State.note_tick : (s.note c).tick = s.tick := rfl

@[simp] theorem State.raise_ph : (s.raise k).ph = s.ph := rfl
@[simp] theorem State.raise_opr : (s.raise k).opr = s.opr := rfl
@[simp] theorem State.raise_neg : (s.raise k).neg = s.neg := rfl
@[simp] theorem State.raise_x : (s.raise k).x = s.x := rfl
@[simp] theorem State.raise_v : (s.raise k).v = s.v := rfl
@[simp] theorem State.raise_h : (s.raise k).h = s.h := rfl
@[simp] theorem State.raise_y : (s.raise k).y = s.y := rfl
@[simp] theorem State.raise_m : (s.raise k).m = s.m := rfl
@[simp] theorem State.raise_cnt : (s.raise k).cnt = s.cnt := rfl
@[simp] theorem State.raise_st : (s.raise k).st = k.code := rfl
@[simp] theorem State.raise_res : (s.raise k).res = s.res := rfl
@[simp] theorem State.raise_host : (s.raise k).host = s.host := rfl
@[simp] theorem State.raise_inFlight : (s.raise k).inFlight = s.inFlight := rfl
@[simp] theorem State.raise_answered : (s.raise k).answered = s.answered := rfl
@[simp] theorem State.raise_issues : (s.raise k).issues = s.issues := rfl
@[simp] theorem State.raise_takes : (s.raise k).takes = s.takes := rfl
@[simp] theorem State.raise_tick : (s.raise k).tick = s.tick := rfl

@[simp] theorem State.take_ph : s.take.ph = .idle := rfl
@[simp] theorem State.take_opr : s.take.opr = s.opr := rfl
@[simp] theorem State.take_neg : s.take.neg = s.neg := rfl
@[simp] theorem State.take_x : s.take.x = s.x := rfl
@[simp] theorem State.take_v : s.take.v = s.v := rfl
@[simp] theorem State.take_h : s.take.h = s.h := rfl
@[simp] theorem State.take_y : s.take.y = s.y := rfl
@[simp] theorem State.take_m : s.take.m = s.m := rfl
@[simp] theorem State.take_cnt : s.take.cnt = s.cnt := rfl
@[simp] theorem State.take_st : s.take.st = s.st := rfl
@[simp] theorem State.take_res : s.take.res = s.res := rfl
@[simp] theorem State.take_host : s.take.host = s.host := rfl
@[simp] theorem State.take_inFlight : s.take.inFlight = none := rfl
@[simp] theorem State.take_answered : s.take.answered = s.recorded := rfl
@[simp] theorem State.take_issues : s.take.issues = s.issues := rfl
@[simp] theorem State.take_takes : s.take.takes = s.takes + 1 := rfl
@[simp] theorem State.take_tick : s.take.tick = s.tick := rfl

@[simp] theorem State.resetStep_ph : s.resetStep.ph = .idle := rfl
@[simp] theorem State.resetStep_host : s.resetStep.host = s.host := rfl
@[simp] theorem State.resetStep_inFlight : s.resetStep.inFlight = none := rfl
@[simp] theorem State.resetStep_answered : s.resetStep.answered = s.answered := rfl
@[simp] theorem State.resetStep_issues : s.resetStep.issues = s.issues := rfl
@[simp] theorem State.resetStep_takes : s.resetStep.takes = s.takes := rfl
@[simp] theorem State.resetStep_tick : s.resetStep.tick = s.tick := rfl

end Sys2Proof.Machine
end

