-- ==== Sys2Proof/Laws/Ops.lean ====
section
/-! SUPPORT. What each shared operation can do: the run of core steps, an accepted command, `exec` and
`step`. -/

namespace Sys2Proof.Machine

/-! Core steps -/

@[simp] theorem State.coreSteps_zero (s : State) : State.coreSteps 0 s = s := rfl

theorem State.coreSteps_succ (n : Nat) (s : State) :
    State.coreSteps (n + 1) s = State.coreSteps n s.coreStep := rfl

theorem State.coreSteps_add (a b : Nat) (s : State) :
    State.coreSteps (a + b) s = State.coreSteps b (State.coreSteps a s) := by
  induction a generalizing s with
  | zero => simp
  | succ a ih => rw [Nat.succ_add, State.coreSteps_succ, ih, State.coreSteps_succ]

/-- In a phase that enables no core step, nothing happens. -/
theorem State.coreStep_of_rest {s : State} (h : s.ph = .idle ∨ s.ph = .done) : s.coreStep = s := by
  rcases h with h | h <;> simp [State.coreStep, h]

theorem State.coreSteps_of_rest {s : State} (h : s.ph = .idle ∨ s.ph = .done) (n : Nat) :
    State.coreSteps n s = s := by
  induction n with
  | zero => rfl
  | succ n ih => rw [State.coreSteps_succ, State.coreStep_of_rest h, ih]

/-- A core step is one of the four steps of the core, or nothing. -/
theorem State.coreStep_cases (s : State) :
    (s.ph = .scan ∧ s.coreStep = s.scan) ∨ (s.ph = .norm ∧ s.coreStep = s.norm) ∨
      (s.ph = .iter ∧ s.coreStep = s.iter) ∨ (s.ph = .fin ∧ s.coreStep = s.fin) ∨
      ((s.ph = .idle ∨ s.ph = .done) ∧ s.coreStep = s) := by
  cases h : s.ph <;> simp [State.coreStep, h]

/-- The core writes none of the host's fields, and none of `OPR`, `NEG`, `X`, `ST`. -/
theorem State.coreStep_frame (s : State) :
    s.coreStep.host = s.host ∧ s.coreStep.inFlight = s.inFlight ∧ s.coreStep.answered = s.answered ∧
      s.coreStep.issues = s.issues ∧ s.coreStep.takes = s.takes ∧ s.coreStep.tick = s.tick ∧ s.coreStep.opr = s.opr ∧ s.coreStep.neg = s.neg ∧
      s.coreStep.x = s.x ∧ s.coreStep.st = s.st := by
  rcases s.coreStep_cases with ⟨_, h⟩ | ⟨_, h⟩ | ⟨_, h⟩ | ⟨_, h⟩ | ⟨_, h⟩ <;> rw [h] <;>
    simp [State.scan, State.norm, State.iter, State.fin]

theorem State.coreSteps_frame (n : Nat) (s : State) :
    (State.coreSteps n s).host = s.host ∧ (State.coreSteps n s).inFlight = s.inFlight ∧
      (State.coreSteps n s).answered = s.answered ∧ (State.coreSteps n s).issues = s.issues ∧
      (State.coreSteps n s).takes = s.takes ∧ (State.coreSteps n s).tick = s.tick ∧
      (State.coreSteps n s).opr = s.opr ∧ (State.coreSteps n s).neg = s.neg ∧
      (State.coreSteps n s).x = s.x ∧ (State.coreSteps n s).st = s.st := by
  induction n generalizing s with
  | zero => simp
  | succ n ih =>
    obtain ⟨h1, h2, h3, h4, h5, h6, h7, h8, h9, h10⟩ := ih s.coreStep
    obtain ⟨g1, g2, g3, g4, g5, g6, g7, g8, g9, g10⟩ := s.coreStep_frame
    rw [State.coreSteps_succ]
    exact ⟨h1.trans g1, h2.trans g2, h3.trans g3, h4.trans g4, h5.trans g5, h6.trans g6, h7.trans g7,
      h8.trans g8, h9.trans g9, h10.trans g10⟩

/-- The core never leaves a phase for `IDLE`. -/
theorem State.coreStep_ph_ne_idle {s : State} (h : s.ph ≠ .idle) : s.coreStep.ph ≠ .idle := by
  cases hp : s.ph <;> simp_all [State.coreStep, State.scan, State.norm, State.iter, State.fin] <;>
    split <;> simp

theorem State.coreSteps_ph_ne_idle {s : State} (h : s.ph ≠ .idle) (n : Nat) :
    (State.coreSteps n s).ph ≠ .idle := by
  induction n generalizing s with
  | zero => exact h
  | succ n ih => exact ih (State.coreStep_ph_ne_idle h)

/-! An accepted command -/

theorem State.operate_idle {s issued : State} (h : s.ph = .idle) :
    s.operate issued = .next (State.coreSteps s.edge.coreRun issued) := by
  simp [State.operate, h]

/-- A command in a phase other than `IDLE` has no effect (40_sequencer.md R62). -/
theorem State.operate_busy {s issued : State} (h : s.ph ≠ .idle) : s.operate issued = .next s := by
  simp [State.operate, h]

/-- What `exec` answers: the core steps from the state the command's `ISSUE` leaves, or nothing. -/
theorem exec_eq (i : Instr) (s : State) :
    exec i s =
      if s.ph = .idle then .next (State.coreSteps s.edge.coreRun (s.issued i)) else .next s := by
  cases i <;> rfl

theorem exec_idle {i : Instr} {s : State} (h : s.ph = .idle) :
    exec i s = .next (State.coreSteps s.edge.coreRun (s.issued i)) := by
  simp [exec_eq, h]

theorem exec_busy {i : Instr} {s : State} (h : s.ph ≠ .idle) : exec i s = .next s := by
  simp [exec_eq, h]

/-! The step -/

theorem State.accepts_iff {s : State} :
    s.accepts = true ↔ s.edge.rst = false ∧ s.ph = .idle ∧ s.edge.cmdValid = true := by
  simp [State.accepts, and_assoc]

theorem step_accepts {s : State} (h : s.accepts = true) :
    step s = .next ((State.coreSteps s.edge.coreRun (s.issued s.offered)).note s.edge.cmd).advance := by
  have hi := (State.accepts_iff.mp h).2.1
  simp [step, h, exec_idle hi, afterIssue]

theorem step_otherwise {s : State} (h : s.accepts = false) : step s = .next s.otherwise.advance := by
  simp [step, h]

/-- What a step can do: `ISSUE` and core steps, `RESET`, `TAKE`, or a core step and those that follow it
(in `IDLE` and `DONE`: nothing). -/
theorem step_cases {s t : State} (h : step s = .next t) :
    (s.accepts = true ∧
      t = ((State.coreSteps s.edge.coreRun (s.issued s.offered)).note s.edge.cmd).advance) ∨
    (s.edge.rst = true ∧ t = s.resetStep.advance) ∨
    (s.edge.rst = false ∧ s.ph = .done ∧ s.edge.rspReady = true ∧ t = s.take.advance) ∨
    (s.edge.rst = false ∧ s.accepts = false ∧ ¬(s.ph = .done ∧ s.edge.rspReady = true) ∧
      t = (State.coreSteps s.edge.coreRun s.coreStep).advance) := by
  cases ha : s.accepts with
  | true =>
    rw [step_accepts ha] at h
    exact .inl ⟨rfl, (Host.Outcome.next.inj h).symm⟩
  | false =>
    rw [step_otherwise ha] at h
    have ht := (Host.Outcome.next.inj h).symm
    simp only [State.otherwise] at ht
    split at ht
    · exact .inr (.inl ⟨‹_›, ht⟩)
    · split at ht
      · exact .inr (.inr (.inl ⟨by simp_all, ‹_ ∧ _›.1, ‹_ ∧ _›.2, ht⟩))
      · exact .inr (.inr (.inr ⟨by simp_all, rfl, ‹_›, ht⟩))

end Sys2Proof.Machine
end

