-- ==== Sys2Proof/Laws/PerInstr.lean ====
section
/-! SUPPORT. Per-instruction laws: the encoded word of every instruction carries its operation select in
bits 33:32 (30_encoding.md R40, R41). -/

namespace Sys2Proof.Laws.OpField

/-- Bits 33:32 of the encoded word are the operation select. -/
def Statement (i : Instr) : Prop := cmdOp (encode i) = i.opSelect

theorem log2U16 (u : BitVec 16) : Statement (.log2U16 u) := cmdOp_makeCmd _ _

theorem log2U32 (u : BitVec 32) : Statement (.log2U32 u) := cmdOp_makeCmd _ _

theorem log2I32 (v : BitVec 32) : Statement (.log2I32 v) := cmdOp_makeCmd _ _

theorem reserved : Statement .reserved := cmdOp_makeCmd _ _

end Sys2Proof.Laws.OpField
end

