-- ==== Sys2Proof/Laws/Program.lean ====
section
/-! SUPPORT. The steps of a run one by one, and where the run of a program starts. -/

namespace Sys2Proof.Machine

@[simp] theorem runFor_zero (s : State) : runFor 0 s = .next s := rfl

theorem runFor_succ {s t : State} (h : step s = .next t) (n : Nat) : runFor (n + 1) s = runFor n t := by
  simp [runFor, h]

/-- A run goes on from the state its first steps lead to. -/
theorem runFor_add {m : Nat} {s t : State} (h : runFor m s = .next t) (n : Nat) :
    runFor (m + n) s = runFor n t := by
  induction m generalizing s with
  | zero =>
    cases h
    rw [Nat.zero_add]
  | succ m ih =>
    cases hs : step s with
    | next u =>
      rw [runFor_succ hs] at h
      rw [Nat.succ_add, runFor_succ hs, ih h]
    | fault r => nomatch r
    | refused r => simp [runFor, hs] at h

/-- A run of a program starts in `p` exactly where `PH = IDLE`, with nothing counted or recorded yet. -/
theorem withProgram_eq_some {s p : State} {cs : List CmdWord} :
    s.withProgram cs = some p ↔ s.ph = .idle ∧
      { s with host := programEdges cs, inFlight := none, answered := [], issues := 0, takes := 0 } = p := by
  simp [State.withProgram]

end Sys2Proof.Machine
end

