-- ==== Sys2Proof/Tests/Slice0.lean ====
section
/-! SUPPORT. Tests on fixed values, expected results from 95_test_vectors.md, 96_test_vectors_datapath.md
and the worked examples of the rules; and for every statement with hypotheses a witness that meets them. -/

namespace Sys2Proof.Tests

open Machine

/-! Helpers -/

/-- The next state, if the outcome is one. -/
def nextOf : Host.Outcome State Fault Refusal → Option State
  | .next s => some s
  | .fault _ => none
  | .refused _ => none

/-- Phase and response word of the next state. -/
def answerOf (o : Host.Outcome State Fault Refusal) : Option (Phase × RspWord) :=
  (nextOf o).map fun s => (s.ph, s.response)

/-- Phase, `H`, `V`, `Y`, `M`, `CNT`, `ST` of the next state, as natural numbers. -/
def viewOf (o : Host.Outcome State Fault Refusal) : Option (Phase × List Nat) :=
  (nextOf o).map fun s =>
    (s.ph, [s.h.toNat, s.v.toNat, s.y.toNat, s.m.toNat, s.cnt.toNat, s.st.toNat])

/-- The word of a line of text, if it is a command. -/
def wordOf (line : String) : Option CmdWord :=
  match assembleLine line with
  | .ok w => w
  | .error _ => none

/-- Why a line of text is no command. -/
def errorOf (line : String) : Option AsmError :=
  match assembleLine line with
  | .ok _ => none
  | .error e => some e

/-- Registers full of rubbish, as after a reset: 10_state.md R22. -/
def stale : State :=
  { State.reset with
    opr := 3, neg := 1, x := 0xDEADBEEF, v := 0x12345678, h := 31, y := 0xFF, m := 0xFFFFFFF8, cnt := 27
    st := 3, res := 0xFFFFFFFF }

/-- A block whose host will offer `c` and let the core make `n` steps. -/
def offering (c : CmdWord) (n : Nat) : State := { stale with host := [Edge.offer c n] }

/-- A block with a command in flight, `n` core steps after its `ISSUE`, and a quiet host. -/
def running (c : CmdWord) (n : Nat) : State :=
  { State.coreSteps n (stale.issued (decode c)) with inFlight := some c }

/-! WellFormed: one ill-formed term for each check of a source line; an instruction has none, its operand
type being the field -/

theorem test_wellFormed_u16_over : (SourceLine.op .log2U16 65536).wellFormed = false := by decide
theorem test_wellFormed_u16_negative : (SourceLine.op .log2U16 (-1)).wellFormed = false := by decide
theorem test_wellFormed_u32_over : (SourceLine.op .log2U32 4294967296).wellFormed = false := by decide
theorem test_wellFormed_i32_over : (SourceLine.op .log2I32 2147483648).wellFormed = false := by decide
theorem test_wellFormed_i32_under : (SourceLine.op .log2I32 (-2147483649)).wellFormed = false := by decide
theorem test_wellFormed_cmd_over : (SourceLine.cmd 0x400000000).wellFormed = false := by decide
theorem test_wellFormed_ends :
    (SourceLine.op .log2U16 65535).wellFormed && (SourceLine.op .log2I32 (-2147483648)).wellFormed &&
      (SourceLine.cmd 0x3FFFFFFFF).wellFormed && Instr.reserved.wellFormed = true := by decide

/-! Decoding: words written out bit by bit from 30_encoding.md R40 to R42 -/

theorem test_decode_log2U16 :
    decode 0b00_1010101010101010_0000000000000011#34 = .log2U16 3#16 := by decide
theorem test_decode_log2U32 :
    decode 0b01_11011110101011011011111011101111#34 = .log2U32 0xDEADBEEF#32 := by decide
theorem test_decode_log2I32 :
    decode 0b10_11111111111111111111111111111100#34 = .log2I32 4294967292#32 := by decide
theorem test_decode_reserved :
    decode 0b11_00010010001101000101011001111000#34 = .reserved := by decide
theorem test_decodeTableWord : decodeTableWord 34 0x2FFFFFFFC = some (.log2I32 0xFFFFFFFC#32) := by decide
theorem test_decodeTableWord_bytes : decodeTableWord 40 0x100000003 = some (.log2U32 3#32) := by decide
theorem test_decodeNumber_wide : decodeTableWord 40 0x400000000 = none := by decide
theorem test_encode : encode (.log2I32 0xFFFFFFFC#32) = 0x2FFFFFFFC#34 := by decide

/-! Assembler: the examples of 30_encoding.md R49 and R50 -/

theorem test_line_mnemonic : wordOf "LOG2.I32 -4 ; comment" = some 0x2FFFFFFFC#34 := by decide
theorem test_line_name : wordOf "log2_fixed_q4_12 0x3E8" = some 0x0000003E8#34 := by decide
theorem test_line_cmd : wordOf ".cmd 0x3_12345678" = some 0x312345678#34 := by decide
theorem test_line_range : errorOf "LOG2.U16 65536" = some .outOfRange := by decide
theorem test_line_unknown : errorOf "LOG2 3" = some .unknownMnemonic := by decide
theorem test_line_literal : errorOf "LOG2.U32 3g" = some .badLiteral := by decide

/-! Datapath units: 96_test_vectors_datapath.md DP1 to DP3 and the worked examples of R68, R70, R75, R83 -/

theorem test_scanStep : scanStep 8 (0x1761, 0) = (0x17, 8) := by decide
theorem test_hsb : hsb 4 0x1761 = 12 ∧ hsb 5 0xDEADBEEF = 31 ∧ hsb 5 1000 = 9 ∧ hsb 4 0x7FFF = 14 := by decide
theorem test_normalise : normalise 16 0x1761 12 = 0xBB08 ∧ normalise 32 0x3E8 9 = 0xFA000000 := by decide
theorem test_product : productPlusOffset 16 0xFFFF = 0xFFFE4001 := by decide
theorem test_iter_below : iterStep 16 (0xB504, 0) = (0xFFFD, 0) := by decide
theorem test_iter_above : iterStep 32 (0xB504F334, 0) = (0x80000000, 1) := by decide
theorem test_log2Core : log2Core (paramsOf 2#2) 3 = 0x657 := by decide

/-! The four instructions, run to the response from an idle block full of rubbish -/

/-- 95_test_vectors.md section 2.5, the operand with the largest error. -/
theorem test_log2U16 : answerOf (exec (.log2U16 5985) (offering 0 18)) = some (.done, 0x00000C8C0#34) := by
  decide
/-- 95_test_vectors.md section 2.8, the zero operand. -/
theorem test_log2U16_zero : answerOf (exec (.log2U16 0) (offering 0 18)) = some (.done, 0x100000000#34) := by
  decide
/-- 95_test_vectors.md section 2.6. -/
theorem test_log2U32 : answerOf (exec (.log2U32 0xDEADBEEF) (offering 0 34)) = some (.done, 0x0FE63FB98#34) := by
  decide +kernel
/-- 95_test_vectors.md section 2.6, the largest operand. -/
theorem test_log2U32_top : answerOf (exec (.log2U32 0xFFFFFFFF) (offering 0 34)) = some (.done, 0x0FFFFFFFF#34) := by
  decide +kernel
/-- 95_test_vectors.md section 2.7, a negative operand. -/
theorem test_log2I32 : answerOf (exec (.log2I32 (-3)) (offering 0 17)) = some (.done, 0x0FFFFF9A9#34) := by
  decide
/-- 95_test_vectors.md section 2.7, the most negative operand. -/
theorem test_log2I32_min : answerOf (exec (.log2I32 0x80000000) (offering 0 17)) = some (.done, 0x0FFFF8400#34) := by
  decide
/-- 95_test_vectors.md section 2.8. -/
theorem test_reserved : answerOf (exec .reserved (offering 0 0)) = some (.done, 0x200000000#34) := by decide
/-- 40_sequencer.md R55: the reserved command leaves the datapath registers. -/
theorem test_reserved_keeps :
    (nextOf (exec .reserved (offering 0 0))).map (fun s => (s.x, s.y, s.neg)) = some (0xDEADBEEF, 0xFF, 1) := by
  decide

/-! Single steps: 95_test_vectors.md section 2.10 and program P1 -/

/-- S1 and P1: `ISSUE` of `LOG2.U16 3`, the registers not written still stale. -/
theorem test_step_issue : viewOf (step (offering 3 0)) = some (.scan, [8, 3, 0, 0xFFFFFFF8, 27, 0]) := by decide
/-- P1: the `SCAN` step with `h = 1`. -/
theorem test_step_scan : viewOf (step (running 3 3)) = some (.norm, [0, 1, 1, 0xFFFFFFF8, 27, 0]) := by decide
/-- P1: `NORM`. -/
theorem test_step_norm : viewOf (step (running 3 4)) = some (.iter, [0, 1, 1, 0xC000, 0, 0]) := by decide
/-- P1: the fourth `ITER` step. -/
theorem test_step_iter : viewOf (step (running 3 8)) = some (.iter, [0, 1, 0x19, 0xA436, 4, 0]) := by decide
/-- P1: the last `ITER` step. -/
theorem test_step_iter_last : viewOf (step (running 3 16)) = some (.fin, [0, 1, 0x195C, 0x807C, 12, 0]) := by decide
/-- P1: `FIN`. -/
theorem test_step_fin : answerOf (step (running 3 17)) = some (.done, 0x00000195C#34) := by decide
/-- S6: the response is held while the host does not take it. -/
theorem test_step_hold : answerOf (step (running 3 18)) = some (.done, 0x00000195C#34) := by decide
/-- S7: `TAKE`. -/
theorem test_step_take :
    (nextOf (step { running 3 18 with host := [Edge.take] })).map (fun s => (s.ph, s.responses)) =
      some (.idle, [0x00000195C#34]) := by decide
/-- S8 and S13: `RESET` in mid-operation, a command offered at the same edge. -/
theorem test_step_reset :
    (nextOf (step { running 3 8 with host := [{ Edge.offer 3 0 with rst := true }] })).map
      (fun s => (s.ph, s.inFlight, s.answered)) = some (.idle, none, []) := by decide
/-- S5 and S12: an offer and an early `rsp_ready` change nothing of the step. -/
theorem test_step_busy :
    viewOf (step { running 3 8 with host := [{ Edge.offer 0x1FFFFFFFF 0 with rspReady := true }] }) =
      some (.iter, [0, 1, 0x19, 0xA436, 4, 0]) := by decide
/-- An idle block waits. -/
theorem test_step_idle : (nextOf (step State.reset)).map (·.ph) = some .idle := by decide
/-- The word placed by `withFetchWord` runs at the next step (95_test_vectors.md section 2.7). -/
theorem test_step_fetch :
    answerOf (step (State.reset.withFetchWord 34 0x2FFFFFFFC)) = some (.done, 0x0FFFFF800#34) := by decide
/-- The written-out form of 43_log2_u16.md R91 on its worked example. -/
theorem test_written : writtenU16 3 = 0x195C ∧ writtenI32 1000 = 0x27DC := by decide
/-- A program's edges: each command is offered, then its response taken (40_sequencer.md R65). -/
theorem test_programEdges : programEdges [5#34] = [Edge.offer 5 34, Edge.take] := by decide
/-- An earlier exchange is no part of a program's run: the run of one command has not ended where it
starts, and its responses are its own (40_sequencer.md R65). -/
theorem test_withProgram_fresh :
    (({ stale with answered := [⟨3, 0x195C⟩], issues := 1, takes := 1 } : State).withProgram [5#34]).map
      (fun s => (s.ended 1, s.responses)) = some (false, []) := by decide
/-- A run starts with `PH = IDLE` only (40_sequencer.md R65). -/
theorem test_withProgram_busy : (running 3 4).withProgram [5#34] = none := by decide

/-! Witnesses: for every statement with hypotheses, values that meet them -/

theorem witness_DecodeEncodeAgree : (Instr.log2U16 0xFFFF).wellFormed = true := by decide
theorem witness_DecoderReadsOpAndOperand :
    cmdOp 0x0FFFFFFFF#34 = 0b00#2 ∧ cmdOp 0x1FFFFFFFF#34 = 0b01#2 ∧ cmdOp 0x200000000#34 = 0b10#2 ∧
      cmdOp 0x300000000#34 = 0b11#2 ∧ decode 0x0FFFF0000#34 = decode 0x000000000#34 ∧
      decode 0x300000000#34 = decode 0x3FFFFFFFF#34 ∧ decode 0x100000000#34 ≠ decode 0x200000000#34 := by decide
theorem witness_AssembledLiteralsDecode :
    (0 : Int) ≤ 65535 ∧ (65535 : Int) ≤ 65535 ∧ (4294967295 : Int) ≤ 4294967295 ∧
      (-2147483648 : Int) ≤ -2147483648 ∧ (SourceLine.op .log2U16 65536).wellFormed = false := by decide
theorem witness_ScanStepsTestTheMasks : (0xFFFFFFFF : Nat) < 2 ^ 32 ∧ (0xFFFF : Nat) < 2 ^ 16 := by decide
theorem witness_DetectorIsFloorLog2 :
    (0 < 65535 ∧ 65535 < 2 ^ 2 ^ 4) ∧ (0 < 1 ∧ 1 < 2 ^ 2 ^ 0) := by decide
theorem witness_MantissaStaysNormalised :
    (0b00#2 ≠ 0b11#2 ∧ 0 < 1 ∧ 65535 < 2 ^ (paramsOf 0b00#2).w) ∧
      (0b10#2 ≠ 0b11#2 ∧ 0 < 0xFFFFFFFF ∧ 0xFFFFFFFF < 2 ^ (paramsOf 0b10#2).w) := by decide
theorem witness_ProductNeverWraps : 1 ≤ 1 ∧ 1 ≤ 2 ^ 1 - 1 ∧ 0xFFFF ≤ 0xFFFF := by decide
theorem witness_AccumulatorFits :
    (0b01#2 ≠ 0b11#2 ∧ 0xFFFFFFFF < 2 ^ (paramsOf 0b01#2).w) ∧ 0xFFFF < 2 ^ 16 ∧ 0xFFFFFFFF < 2 ^ 32 := by decide
theorem witness_PowersOfTwoAreExact : 0b00#2 ≠ 0b11#2 ∧ 15 < (paramsOf 0b00#2).w := by decide
theorem witness_ZeroMagnitudeGivesZero : 0b01#2 ≠ 0b11#2 := by decide
theorem witness_ResultBitsAreTheTestedBits :
    0b01#2 ≠ 0b11#2 ∧ 0xFFFFFFFF < 2 ^ (paramsOf 0b01#2).w ∧ 26 < (paramsOf 0b01#2).f := by decide
theorem witness_KernelIsMonotone :
    0b00#2 ≠ 0b11#2 ∧ 0x8000 ≤ 0x8001 ∧ 0x8001 < 2 ^ (paramsOf 0b00#2).w := by decide
theorem witness_WrittenFormsComputeTheKernel : 0xFFFF < 2 ^ 16 ∧ 0xFFFFFFFF < 2 ^ 32 := by decide
theorem witness_KernelErrorIsBounded :
    0b00#2 ≠ 0b11#2 ∧ 0 < 5985 ∧ 5985 < 2 ^ (paramsOf 0b00#2).w := by decide
theorem witness_U16IsMonotone : (0x8000#16).toNat ≤ (0x8001#16).toNat := by decide
theorem witness_I32IsMonotone : (0x80000000#32).toInt ≤ (0x7FFFFFFF#32).toInt := by decide
theorem witness_IntegerPartIsFloorLog2 : 1#16 ≠ 0#16 ∧ 0xFFFFFFFF#32 ≠ 0#32 := by decide
theorem witness_SignedResultIsSymmetric : 0x80000001#32 ≠ 0x80000000#32 := by decide
theorem witness_ResultFieldKeepsTheValue : 16 ≤ 31 ∧ 31 < 32 := by decide
theorem witness_Log2U16Completes : (offering 3 18).ph = .idle ∧ 18 ≤ (offering 3 18).edge.coreRun := by decide
theorem witness_Log2U32Completes :
    (offering 0x100000003 34).ph = .idle ∧ 34 ≤ (offering 0x100000003 34).edge.coreRun := by decide
theorem witness_Log2I32Completes :
    (offering 0x2FFFFFFFD 17).ph = .idle ∧ 17 ≤ (offering 0x2FFFFFFFD 17).edge.coreRun := by decide
theorem witness_ReservedCommandCompletes :
    cmdOp 0x300000000#34 = 0b11#2 ∧ (offering 0x300000000 0).ph = .idle := by decide
theorem witness_ZeroOperandIsReported_u16 :
    (offering 0xFFFF0000 18).ph = .idle ∧
      (decode 0xFFFF0000).coreStepCount ≤ (offering 0xFFFF0000 18).edge.coreRun ∧
      cmdOp 0xFFFF0000 = 0b00#2 ∧ (cmdX 0xFFFF0000).extractLsb' 0 16 = 0#16 := by decide
theorem witness_ZeroOperandIsReported_32 :
    (decode 0x100000000).coreStepCount ≤ (offering 0x100000000 34).edge.coreRun ∧
      cmdOp 0x100000000 = 0b01#2 ∧ cmdX 0x100000000 = 0#32 ∧
      (decode 0x200000000).coreStepCount ≤ (offering 0x200000000 17).edge.coreRun ∧
      cmdOp 0x200000000 = 0b10#2 ∧ cmdX 0x200000000 = 0#32 := by decide
theorem witness_ZeroOperandIsReported_next :
    (nextOf (exec (decode 0x000000001) (offering 1 0))).isSome = true := by decide
theorem witness_CommandFrame :
    (nextOf (exec (.log2U16 3) (offering 3 4))).isSome = true ∧ (offering 3 4).ph = .idle ∧
      (offering 3 4).edge.coreRun < (Instr.log2U16 3).coreStepCount ∧
      (offering 3 4).edge.coreRun ≤ (paramsOf (Instr.log2U16 3).opSelect).s := by decide
theorem witness_StepCountsDependOnOpOnly : Instr.log2U32 7 ≠ .reserved := by decide
theorem witness_CommandsIgnoreOldRegisters :
    (offering 3 18).ph = .idle ∧ ({ State.reset with host := [Edge.offer 3 18] } : State).ph = .idle ∧
      (offering 3 18).edge.coreRun = ({ State.reset with host := [Edge.offer 3 18] } : State).edge.coreRun := by decide
theorem witness_CommandsIgnoreOldRegisters_done :
    (nextOf (exec (.log2U16 3) (offering 3 18))).map (·.ph) = some .done := by decide
theorem witness_IssueWritesItsRegisters : (offering 3 0).ph = .idle ∧ (offering 3 0).edge.coreRun = 0 := by decide
theorem witness_ScanStepOfTheBlock :
    (running 3 0).ph = .scan ∧ (running 3 0).edge.rst = false ∧ (running 3 0).edge.coreRun = 0 := by decide
theorem witness_NormStepOfTheBlock :
    (running 0xFFFF 4).ph = .norm ∧ (running 0xFFFF 4).edge.rst = false ∧ (running 0xFFFF 4).edge.coreRun = 0 ∧
      (running 0xFFFF 4).y.toNat < (paramsOf (running 0xFFFF 4).opr).w := by decide
theorem witness_IterStepOfTheBlock :
    (running 3 5).ph = .iter ∧ (running 3 5).edge.rst = false ∧ (running 3 5).edge.coreRun = 0 ∧
      (running 3 5).opr ≠ 0b11#2 := by decide
theorem witness_FinStepOfTheBlock :
    (running 3 17).ph = .fin ∧ (running 3 17).edge.rst = false ∧ (running 3 17).opr ≠ 0b11#2 := by decide
theorem witness_TakeDeliversTheResponse :
    (fun s : State => s.ph = .done ∧ s.edge.rst = false ∧ s.edge.rspReady = true ∧ s.inFlight = some 3)
      { running 3 18 with host := [Edge.take] } := by decide
theorem witness_ResponseIsHeld :
    (running 3 18).ph = .done ∧ (running 3 18).edge.rst = false ∧ (running 3 18).edge.rspReady = false := by decide
theorem witness_ResetAbandonsTheOperation :
    ({ running 3 8 with host := [Edge.reset] } : State).edge.rst = true := by decide
theorem witness_OutputsFollowThePhase :
    (running 3 18).edge.rst = false ∧ (running 3 18).rspValid = true := by decide
theorem witness_NothingElseStepsTheBlock :
    (running 3 8).ph ≠ .idle ∧ (running 3 8).ph ≠ .done ∧ (running 3 8).edge.rst = false ∧
      Edge.quiet.rst = (Edge.offer 7 0).rst ∧ Edge.quiet.rspReady = (Edge.offer 7 0).rspReady ∧
      Edge.quiet.coreRun = (Edge.offer 7 0).coreRun ∧ Edge.quiet.cmdValid = Edge.take.cmdValid ∧
      Edge.quiet.cmdOp = Edge.take.cmdOp ∧ Edge.quiet.cmdX = Edge.take.cmdX ∧
      State.reset.ph = .idle ∧ State.reset.edge.rst = false ∧ State.reset.edge.cmdValid = false := by decide
theorem witness_CoarseStepIsFineSteps :
    (running 3 8).ph ≠ .idle ∧ (running 3 8).ph ≠ .done ∧ Edge.quiet.rst = false := by decide
theorem witness_StepRunsTheOfferedCommand :
    (offering 3 0).edge.rst = false ∧ (offering 3 0).ph = .idle ∧ (offering 3 0).edge.cmdValid = true ∧
      (nextOf (exec (decode (offering 3 0).edge.cmd) (offering 3 0))).isSome = true := by decide
theorem witness_PlacedWordRunsNext : 0x3FFFFFFFF < 2 ^ 34 := by decide
theorem witness_ExchangeAnswersTheCommand :
    stale.ph = .idle ∧ (decode 0x100000003).coreStepCount ≤ 34 ∧
      ({ stale with host := [Edge.offer 0x100000003 34, Edge.take] } : State).host =
        Edge.offer 0x100000003 34 :: Edge.take :: [] := by decide

/-- `StepKeepsTracks`, `StatusNamesOneCondition`: a block in mid-operation that tracks its command. -/
theorem witness_Tracks :
    (running 3 8).Tracks ∧ (running 3 8).ph ≠ .idle ∧ (running 3 8).opr ≠ 0b11#2 ∧
      (nextOf (step (running 3 8))).isSome = true := by
  refine ⟨⟨by decide, fun _ => ⟨3, rfl, stale, 8, rfl⟩, ?_⟩, by decide, by decide, by decide⟩
  intro e he
  cases he

/-- `StatusNamesOneCondition`: a state that tracks and holds an answered exchange. -/
theorem witness_Tracks_answered :
    ({ State.reset with answered := [⟨0x300000000, 0x200000000⟩] } : State).Tracks := by
  refine ⟨by decide, fun h => absurd rfl h, ?_⟩
  intro e he
  rw [List.mem_singleton.mp he]
  decide

/-- `StepKeepsBounded`, `BoundedGivesTheWidths`: a bounded block in `SCAN`. -/
theorem witness_Bounded_scan :
    (running 3 0).Bounded ∧ (running 3 0).ph = .scan ∧ (nextOf (step (running 3 0))).isSome = true :=
  ⟨⟨⟨by decide, by decide, by decide⟩, .inr (.inl (by decide)), by decide, by decide, by decide, by decide,
    by decide⟩, by decide, by decide⟩

/-- `StepKeepsBounded`, `BoundedGivesTheWidths`: a bounded block in `ITER`. -/
theorem witness_Bounded_iter :
    (running 3 8).Bounded ∧ (running 3 8).ph = .iter ∧ (nextOf (step (running 3 8))).isSome = true :=
  ⟨⟨⟨by decide, by decide, by decide⟩, ⟨fun _ => by decide, by decide⟩, by decide, by decide⟩, by decide,
    by decide⟩

/-- `StepKeepsCounted`: a block in mid-operation, one exchange behind it, whose counts fit its record. -/
theorem witness_Counted :
    ({ running 3 8 with answered := [⟨0x300000000, 0x200000000⟩], issues := 2, takes := 1 } : State).Tracks ∧
      ({ running 3 8 with answered := [⟨0x300000000, 0x200000000⟩], issues := 2, takes := 1 } : State).Counted := by
  refine ⟨⟨by decide, fun _ => ⟨3, rfl, stale, 8, rfl⟩, ?_⟩, by decide, by decide⟩
  intro e he
  rw [List.mem_singleton.mp he]
  decide

/-- `StepCountsIssuesAndTakes`, both counted events: an accepting edge and a taking edge. -/
theorem witness_StepCountsIssuesAndTakes :
    (nextOf (step (offering 3 0))).map (fun t => (t.issues, t.takes)) = some (1, 0) ∧
      (nextOf (step { running 3 18 with host := [Edge.take] })).map (fun t => (t.issues, t.takes)) =
        some (0, 1) := by decide

theorem witness_RunsStartCounted : (stale.withProgram [3#34]).isSome = true ∧ stale.Tracks :=
  ⟨by decide, by decide, fun h => absurd rfl h, fun _ he => absurd he List.not_mem_nil⟩

theorem witness_ProgramEndsWithItsResponses :
    (running 3 4).ph ≠ .idle ∧ stale.ph = .idle ∧ 1 < 2 * [3#34].length ∧
      ((stale.withProgram [3#34]).bind fun p => nextOf (runFor 1 p)).isSome = true := by decide

end Sys2Proof.Tests
end

section
/-! The detector gives the floor of the binary logarithm (41_hsb_detector.md R71). -/

namespace Sys2Proof.Machine

/-- One scan step keeps `Y + log2 V`, and leaves a `V` that fits the next window (R71). -/
theorem scanStep_keeps_log2 {n v y : Nat} (hpos : 0 < v) (hv : v < 2 ^ 2 ^ (n + 1)) :
    0 < (scanStep (2 ^ n) (v, y)).1 ∧ (scanStep (2 ^ n) (v, y)).1 < 2 ^ 2 ^ n ∧
      (scanStep (2 ^ n) (v, y)).2 + Nat.log2 (scanStep (2 ^ n) (v, y)).1 = y + Nat.log2 v := by
  have hwindow : v < 2 ^ (2 * 2 ^ n) := by rwa [← Nat.pow_succ']
  cases hit : scanHit (2 ^ n) v with
  | true =>
    have hle : 2 ^ 2 ^ n ≤ v := (scanHit_iff_le hwindow).mp hit
    have hlog : 2 ^ n ≤ Nat.log 2 v := Nat.le_log_of_pow_le (by decide) hle
    rw [scanStep_hit hit, Nat.shiftRight_eq_div_pow]
    refine ⟨Nat.div_pos hle (Nat.two_pow_pos _), ?_, ?_⟩
    · rwa [Nat.div_lt_iff_lt_mul (Nat.two_pow_pos _), ← Nat.pow_add, ← Nat.two_mul]
    · simp only [Nat.log2_eq_log_two, Nat.log_div_base_pow]
      omega
  | false =>
    have hlt : ¬ 2 ^ 2 ^ n ≤ v := fun hle => by simp [(scanHit_iff_le hwindow).mpr hle] at hit
    rw [scanStep_miss hit]
    exact ⟨hpos, Nat.lt_of_not_le hlt, rfl⟩

theorem scanLoop_adds_log2 {n v y : Nat} (hpos : 0 < v) (hv : v < 2 ^ 2 ^ n) :
    (scanLoop n (v, y)).2 = y + Nat.log2 v := by
  induction n generalizing v y with
  | zero =>
    obtain rfl : v = 1 := by simp at hv; omega
    rfl
  | succ n ih =>
    obtain ⟨hpos', hv', hsum⟩ := scanStep_keeps_log2 (y := y) hpos hv
    rw [scanLoop_succ, ← hsum, ← ih hpos' hv']

theorem hsb_eq_log2 {s x : Nat} (hpos : 0 < x) (hx : x < 2 ^ 2 ^ s) : hsb s x = Nat.log2 x := by
  rw [hsb, scanLoop_adds_log2 hpos hx, Nat.zero_add]

theorem two_pow_hsb_le {s x : Nat} (hpos : 0 < x) (hx : x < 2 ^ 2 ^ s) : 2 ^ hsb s x ≤ x := by
  rw [hsb_eq_log2 hpos hx]
  exact Nat.log2_self_le hpos.ne'

theorem lt_two_pow_hsb_succ {s x : Nat} (hpos : 0 < x) (hx : x < 2 ^ 2 ^ s) :
    x < 2 ^ (hsb s x + 1) := by
  rw [hsb_eq_log2 hpos hx]
  exact Nat.lt_log2_self

theorem hsb_lt {s x : Nat} (hpos : 0 < x) (hx : x < 2 ^ 2 ^ s) : hsb s x < 2 ^ s :=
  (Nat.pow_lt_pow_iff_right (by decide)).mp ((two_pow_hsb_le hpos hx).trans_lt hx)

end Sys2Proof.Machine
end

section
/-! The mantissa stays normalised (42_mantissa_recurrence.md R75, R86, R87). -/

namespace Sys2Proof.Machine

/-- `m` is a normalised mantissa of width `w`: its bit `w - 1` is set and no bit lies above it
(42_mantissa_recurrence.md R86). -/
def Normalised (w m : Nat) : Prop := 2 ^ (w - 1) ≤ m ∧ m < 2 ^ w

theorem two_pow_eq_double {w : Nat} (hw : 1 ≤ w) : 2 ^ w = 2 * 2 ^ (w - 1) := by
  rw [← Nat.pow_succ', Nat.succ_eq_add_one, Nat.sub_add_cancel hw]

theorem two_mul_offset {w : Nat} (hw : 2 ≤ w) : 2 * offset w = 2 ^ (w - 1) := by
  rw [two_pow_eq_double (w := w - 1) (by omega), Nat.sub_sub, offset]

/-- The normaliser multiplies by `2^(w-1-k)` (R75). -/
theorem normalise_mul_two_pow {w x k : Nat} (hk : k ≤ w - 1) :
    normalise w x k * 2 ^ k = x * 2 ^ (w - 1) := by
  rw [normalise, Nat.shiftLeft_eq, Nat.mul_assoc, ← Nat.pow_add, Nat.sub_add_cancel hk]

theorem normalise_normalised {w x k : Nat} (hk : k < w) (hlo : 2 ^ k ≤ x) (hhi : x < 2 ^ (k + 1)) :
    Normalised w (normalise w x k) := by
  have hlow : 2 ^ (w - 1) = 2 ^ k * 2 ^ (w - 1 - k) := by rw [← Nat.pow_add]; congr 1; omega
  have hhigh : 2 ^ w = 2 ^ (k + 1) * 2 ^ (w - 1 - k) := by rw [← Nat.pow_add]; congr 1; omega
  rw [Normalised, normalise, Nat.shiftLeft_eq, hlow, hhigh]
  exact ⟨Nat.mul_le_mul_right _ hlo, Nat.mul_lt_mul_of_pos_right hhi (Nat.two_pow_pos _)⟩

/-- The adder does not wrap (R87). -/
theorem productPlusOffset_lt {w m : Nat} (hw : 1 ≤ w) (hm : m < 2 ^ w) :
    productPlusOffset w m < 2 ^ (2 * w) := by
  have hoffset : offset w < 2 ^ w := Nat.pow_lt_pow_right (by decide) (by omega)
  have hmul : m * m ≤ (2 ^ w - 1) * (2 ^ w - 1) := Nat.mul_self_le_mul_self (by omega)
  have hsquare : (2 ^ w - 1) * (2 ^ w - 1) + 2 * (2 ^ w - 1) + 1 = 2 ^ (2 * w) := by
    obtain ⟨t, ht⟩ := Nat.exists_eq_succ_of_ne_zero (Nat.two_pow_pos w).ne'
    rw [Nat.mul_comm 2 w, Nat.pow_mul, ht]
    simp only [Nat.succ_eq_add_one, Nat.add_sub_cancel]
    ring
  have := Nat.two_pow_pos w
  simp only [productPlusOffset, square]
  omega

theorem overflowBit_iff {w p : Nat} (hw : 1 ≤ w) (hp : p < 2 ^ (2 * w)) :
    overflowBit w p = true ↔ 2 ^ (2 * w - 1) ≤ p := by
  refine ⟨Nat.ge_two_pow_of_testBit, fun hle => ?_⟩
  refine Nat.testBit_of_two_pow_le_and_two_pow_add_one_gt hle ?_
  rwa [Nat.sub_add_cancel (by omega)]

/-- Both shifts of R81 at once: the tested bit is one further place. -/
theorem renormalise_eq_div {w : Nat} (hw : 1 ≤ w) (p : Nat) :
    renormalise w p = p / 2 ^ (w - 1 + (overflowBit w p).toNat) := by
  cases h : overflowBit w p with
  | true => simp [renormalise, h, Nat.shiftRight_eq_div_pow, Nat.sub_add_cancel hw]
  | false => simp [renormalise, h, Nat.shiftRight_eq_div_pow]

/-- One iteration keeps a normalised mantissa (R86). -/
theorem renormalise_normalised {w m : Nat} (hw : 1 ≤ w) (hm : Normalised w m) :
    Normalised w (renormalise w (productPlusOffset w m)) := by
  obtain ⟨hlo, hhi⟩ := hm
  have hlt := productPlusOffset_lt hw hhi
  have hge : 2 ^ (w - 1) * 2 ^ (w - 1) ≤ productPlusOffset w m :=
    Nat.le_add_right_of_le (Nat.mul_le_mul hlo hlo)
  have hiff := overflowBit_iff hw hlt
  rw [renormalise_eq_div hw, Normalised, Nat.le_div_iff_mul_le (Nat.two_pow_pos _),
    Nat.div_lt_iff_lt_mul (Nat.two_pow_pos _)]
  cases hb : overflowBit w (productPlusOffset w m) with
  | true =>
    have hle := hiff.mp hb
    rw [Bool.toNat_true, Nat.sub_add_cancel hw, ← Nat.pow_add, ← Nat.pow_add, ← Nat.two_mul]
    exact ⟨by rwa [← Nat.sub_add_comm hw, ← Nat.two_mul], hlt⟩
  | false =>
    have hnle : ¬ 2 ^ (2 * w - 1) ≤ productPlusOffset w m := by simp [← hiff, hb]
    rw [Bool.toNat_false, Nat.add_zero, ← Nat.pow_add 2 w, ← Nat.add_sub_assoc hw, ← Nat.two_mul]
    exact ⟨hge, Nat.lt_of_not_le hnle⟩

theorem iterLoop_normalised {w n : Nat} {my : Nat × Nat} (hw : 1 ≤ w) (hm : Normalised w my.1) :
    Normalised w (iterLoop w n my).1 := by
  induction n generalizing my with
  | zero => exact hm
  | succ n ih => exact ih (my := iterStep w my) (renormalise_normalised hw hm)

end Sys2Proof.Machine
end

section
/-! The real number that a mantissa and an accumulator stand for, and how far the recurrence moves it
(42_mantissa_recurrence.md R79 to R83). -/

namespace Sys2Proof.Machine

/-- The logarithm a pair (`m`, `Y`) stands for: `Y` plus the logarithm of the mantissa `m / 2^(w-1)`,
which lies in [1, 2). Before the first iteration it is `log2(X)`, and each iteration doubles it up to
the rounding of the shift. -/
noncomputable def pairLog (w : Nat) (my : Nat × Nat) : ℝ :=
  my.2 + Real.logb 2 (my.1 / 2 ^ (w - 1))

/-- The relative weight `2^-(w-1)` of the lowest bit of the smallest mantissa, as a logarithm. -/
noncomputable def mantissaUlp (w : Nat) : ℝ := 1 / 2 ^ (w - 1) / Real.log 2

theorem pairLog_normalise {w x k : Nat} (hx : 0 < x) (hk : k ≤ w - 1) :
    pairLog w (normalise w x k, k) = Real.logb 2 x := by
  have hmul : (normalise w x k : ℝ) * 2 ^ k = x * 2 ^ (w - 1) := by
    exact_mod_cast normalise_mul_two_pow hk
  have hquot : (normalise w x k : ℝ) / 2 ^ (w - 1) = x / 2 ^ k := by
    rw [div_eq_div_iff (by positivity) (by positivity), hmul]
  have hxr : (x : ℝ) ≠ 0 := by positivity
  rw [pairLog, hquot, Real.logb_div hxr (by positivity), Real.logb_pow]
  simp

/-- The accumulator is the floor of what the pair stands for. -/
theorem pairLog_bounds {w : Nat} {my : Nat × Nat} (hw : 1 ≤ w) (hm : Normalised w my.1) :
    (my.2 : ℝ) ≤ pairLog w my ∧ pairLog w my < my.2 + 1 := by
  obtain ⟨hlo, hhi⟩ := hm
  rw [two_pow_eq_double hw] at hhi
  have hlo' : (2 : ℝ) ^ (w - 1) ≤ my.1 := by exact_mod_cast hlo
  have hhi' : (my.1 : ℝ) < 2 * 2 ^ (w - 1) := by exact_mod_cast hhi
  have hc : (0 : ℝ) < 2 ^ (w - 1) := by positivity
  have hone : (1 : ℝ) ≤ my.1 / 2 ^ (w - 1) := (one_le_div hc).mpr hlo'
  have htwo : (my.1 : ℝ) / 2 ^ (w - 1) < 2 := (div_lt_iff₀ hc).mpr hhi'
  have hnonneg := Real.logb_nonneg one_lt_two hone
  have hlt := Real.logb_lt_logb one_lt_two (zero_lt_one.trans_le hone) htwo
  rw [Real.logb_self_eq_one one_lt_two] at hlt
  constructor <;> simp only [pairLog] <;> linarith

/-- How far the quotient of the exact square `m²` and the rounded one `d m'` is from 1, when `m'` is
`m² + c/2` divided by `d` and rounded down, and `d` is `c` or `2c`. -/
theorem log_square_quotient_bounds {c d m m' : ℝ} (hc : 0 < c) (hd : d = c ∨ d = 2 * c) (hm : c ≤ m)
    (hm' : c ≤ m') (hlo : d * m' ≤ m * m + c / 2) (hhi : m * m + c / 2 < d * m' + d) :
    -(1 / 2 * (1 / c)) ≤ Real.log (m * m / (d * m')) ∧
      Real.log (m * m / (d * m')) ≤ 3 / 4 * (1 / c) := by
  have hcd : c ≤ d := by obtain rfl | rfl := hd <;> linarith
  have hd2 : d ≤ 2 * c := by obtain rfl | rfl := hd <;> linarith
  have hm0 : 0 < m := hc.trans_le hm
  have hm0' : 0 < m' := hc.trans_le hm'
  have hd0 : 0 < d := hc.trans_le hcd
  have hq : 0 < m * m / (d * m') := by positivity
  constructor
  · have hinv : (m * m / (d * m'))⁻¹ ≤ 1 + 1 / 2 * (1 / c) := by
      have hcm : c * c ≤ m * m := mul_le_mul hm hm hc.le hm0.le
      have hexpand : (1 + 1 / 2 * (1 / c)) * (m * m) = m * m + (m * m) / (2 * c) := by field_simp
      have hhalf : c / 2 ≤ m * m / (2 * c) := by rw [le_div_iff₀ (by positivity)]; linarith
      rw [inv_div, div_le_iff₀ (by positivity), hexpand]
      linarith
    linarith [Real.one_sub_inv_le_log_of_pos hq]
  · have hle : m * m / (d * m') ≤ 1 + 3 / 4 * (1 / c) := by
      have hexpand : (1 + 3 / 4 * (1 / c)) * (d * m') = d * m' + 3 / 4 * d * (m' / c) := by
        field_simp
      have hone : 1 ≤ m' / c := (one_le_div hc).mpr hm'
      have hmul : 3 / 4 * d ≤ 3 / 4 * d * (m' / c) := le_mul_of_one_le_right (by positivity) hone
      rw [div_le_iff₀ (by positivity), hexpand]
      linarith
    linarith [Real.log_le_sub_one_of_pos hq]

/-- The error of one iteration is the logarithm of the exact square over the rounded one: the tested bit
in the accumulator makes up for the further place of the shift. -/
theorem two_mul_pairLog_sub_iterStep {w : Nat} {my : Nat × Nat} (hm : 0 < my.1)
    (hm' : 0 < (iterStep w my).1) :
    2 * pairLog w my - pairLog w (iterStep w my) =
      Real.log ((my.1 : ℝ) * my.1 /
        (2 ^ (w - 1 + (overflowBit w (productPlusOffset w my.1)).toNat) * (iterStep w my).1)) /
        Real.log 2 := by
  have hmr : (my.1 : ℝ) ≠ 0 := by positivity
  have hmr' : ((iterStep w my).1 : ℝ) ≠ 0 := by positivity
  have hpow : ∀ n : Nat, (2 : ℝ) ^ n ≠ 0 := fun n => by positivity
  have hy : ((iterStep w my).2 : ℝ) =
      2 * my.2 + ((overflowBit w (productPlusOffset w my.1)).toNat : ℝ) := by
    simp [iterStep, insertBit_eq]
  change _ = Real.logb 2 _
  rw [pairLog, pairLog, hy, Real.logb_div hmr (hpow _), Real.logb_div hmr' (hpow _),
    Real.logb_div (mul_ne_zero hmr hmr) (mul_ne_zero (hpow _) hmr'), Real.logb_mul hmr hmr,
    Real.logb_mul (hpow _) hmr', Real.logb_pow, Real.logb_pow, Real.logb_self_eq_one one_lt_two]
  push_cast
  ring

/-- The new mantissa is the square plus half of `2^(w-1)`, shifted and rounded down (R79, R81). -/
theorem iterStep_fst_bounds {w : Nat} {my : Nat × Nat} {d : ℝ} (hw : 2 ≤ w)
    (hd : 2 ^ (w - 1 + (overflowBit w (productPlusOffset w my.1)).toNat) = d) :
    d * (iterStep w my).1 ≤ my.1 * my.1 + 2 ^ (w - 1) / 2 ∧
      my.1 * my.1 + 2 ^ (w - 1) / 2 < d * (iterStep w my).1 + d := by
  have hfst : (iterStep w my).1 = productPlusOffset w my.1 /
      2 ^ (w - 1 + (overflowBit w (productPlusOffset w my.1)).toNat) := renormalise_eq_div (by omega) _
  have hoffset : (2 : ℝ) * offset w = 2 ^ (w - 1) := by exact_mod_cast two_mul_offset hw
  have hp : (my.1 : ℝ) * my.1 + 2 ^ (w - 1) / 2 = productPlusOffset w my.1 := by
    rw [productPlusOffset, square, ← hoffset]
    push_cast
    ring
  rw [hp, ← mul_add_one, hfst, ← hd]
  constructor
  · exact_mod_cast Nat.mul_div_le _ _
  · exact_mod_cast Nat.lt_mul_div_succ _ (Nat.two_pow_pos _)

theorem iterStep_pairLog_bounds {w : Nat} {my : Nat × Nat} (hw : 2 ≤ w) (hm : Normalised w my.1) :
    2 * pairLog w my - 3 / 4 * mantissaUlp w ≤ pairLog w (iterStep w my) ∧
      pairLog w (iterStep w my) ≤ 2 * pairLog w my + 1 / 2 * mantissaUlp w := by
  obtain ⟨hlo', -⟩ : Normalised w (iterStep w my).1 := renormalise_normalised (by omega) hm
  obtain ⟨hlo, -⟩ := hm
  have herror := two_mul_pairLog_sub_iterStep (my := my) (w := w)
    ((Nat.two_pow_pos _).trans_le hlo) ((Nat.two_pow_pos _).trans_le hlo')
  obtain ⟨hdivLe, hltDiv⟩ := iterStep_fst_bounds (my := my) hw rfl
  have hd : (2 : ℝ) ^ (w - 1 + (overflowBit w (productPlusOffset w my.1)).toNat) = 2 ^ (w - 1) ∨
      (2 : ℝ) ^ (w - 1 + (overflowBit w (productPlusOffset w my.1)).toNat) = 2 * 2 ^ (w - 1) := by
    cases overflowBit w (productPlusOffset w my.1)
    · exact .inl rfl
    · exact .inr (pow_succ' 2 (w - 1))
  obtain ⟨hlow, hhigh⟩ := log_square_quotient_bounds (by positivity) hd (by exact_mod_cast hlo)
    (by exact_mod_cast hlo') hdivLe hltDiv
  have hlog2 : (0 : ℝ) ≤ Real.log 2 := (Real.log_pos one_lt_two).le
  have hlow' := div_le_div_of_nonneg_right hlow hlog2
  have hhigh' := div_le_div_of_nonneg_right hhigh hlog2
  rw [← herror, neg_div, mul_div_assoc, ← mantissaUlp] at hlow'
  rw [← herror, mul_div_assoc, ← mantissaUlp] at hhigh'
  constructor <;> linarith

/-- The errors of `n` iterations, each doubled by those after it, sum to less than `2^n` of one. -/
theorem iterLoop_pairLog_bounds {w : Nat} (n : Nat) {my : Nat × Nat} (hw : 2 ≤ w)
    (hm : Normalised w my.1) :
    2 ^ n * pairLog w my - (2 ^ n - 1) * (3 / 4 * mantissaUlp w) ≤ pairLog w (iterLoop w n my) ∧
      pairLog w (iterLoop w n my) ≤ 2 ^ n * pairLog w my + (2 ^ n - 1) * (1 / 2 * mantissaUlp w) := by
  induction n generalizing my with
  | zero => simp
  | succ n ih =>
    have hnext : Normalised w (iterStep w my).1 := renormalise_normalised (by omega) hm
    obtain ⟨hlow, hhigh⟩ := ih hnext
    obtain ⟨hstepLow, hstepHigh⟩ := iterStep_pairLog_bounds hw hm
    have hpow : (0 : ℝ) ≤ 2 ^ n := by positivity
    have hscaledLow := mul_le_mul_of_nonneg_left hstepLow hpow
    have hscaledHigh := mul_le_mul_of_nonneg_left hstepHigh hpow
    rw [iterLoop_succ, pow_succ]
    constructor <;> linarith

end Sys2Proof.Machine
end

section
/-! O18: the error of the kernel against the real logarithm (00_scope.md R7, 43_log2_u16.md R95). -/

namespace Sys2Proof.Machine

/-- What the three parameter sets (00_scope.md R4) share: the width is `2^s`, at least 2, and `2^f` is
at most an eighth of the smallest mantissa. -/
theorem paramsOf_widths {op : BitVec 2} (h : op ≠ 0b11#2) :
    (paramsOf op).w = 2 ^ (paramsOf op).s ∧ 2 ≤ (paramsOf op).w ∧
      8 * 2 ^ (paramsOf op).f ≤ 2 ^ ((paramsOf op).w - 1) := by
  obtain rfl | rfl | rfl := opSelect_cases h <;> simp

theorem mantissaUlp_pos (w : Nat) : 0 < mantissaUlp w :=
  div_pos (by positivity) (Real.log_pos one_lt_two)

/-- `1 / (8 ln 2) < 0.181`, so that three quarters of it are below 0.14 and one half below 0.1. -/
theorem two_pow_mul_mantissaUlp_lt {w f : Nat} (h : 8 * 2 ^ f ≤ 2 ^ (w - 1)) :
    2 ^ f * mantissaUlp w < 0.181 := by
  have hc : (8 : ℝ) * 2 ^ f ≤ 2 ^ (w - 1) := by exact_mod_cast h
  have hpow : (0 : ℝ) < 2 ^ (w - 1) := by positivity
  have hlog := Real.log_two_gt_d9
  have hquot : (2 : ℝ) ^ f / 2 ^ (w - 1) ≤ 1 / 8 := by rw [div_le_iff₀ hpow]; linarith
  calc 2 ^ f * mantissaUlp w = 2 ^ f / 2 ^ (w - 1) / Real.log 2 := by rw [mantissaUlp]; ring
    _ ≤ 1 / 8 / Real.log 2 := div_le_div_of_nonneg_right hquot (by linarith)
    _ < 0.181 := by rw [div_lt_iff₀ (by linarith)]; linarith

/-- The normaliser gives the first iteration a normalised mantissa (R75, R86). -/
theorem normalise_hsb_normalised {p : Params} {x : Nat} (hw : p.w = 2 ^ p.s) (hpos : 0 < x)
    (hx : x < 2 ^ p.w) : Normalised p.w (normalise p.w x (hsb p.s x)) := by
  rw [hw] at hx
  exact normalise_normalised (hw ▸ hsb_lt hpos hx) (two_pow_hsb_le hpos hx) (lt_two_pow_hsb_succ hpos hx)

/-- The kernel's result is the floor of what its final pair stands for. -/
theorem kernel_pairLog_floor {p : Params} {x : Nat} (hw : p.w = 2 ^ p.s) (hw2 : 2 ≤ p.w)
    (hpos : 0 < x) (hx : x < 2 ^ p.w) :
    (log2Core p x : ℝ) ≤ pairLog p.w (kernel p x) ∧ pairLog p.w (kernel p x) < log2Core p x + 1 :=
  pairLog_bounds (by omega) (iterLoop_normalised (by omega) (normalise_hsb_normalised hw hpos hx))

/-- What the kernel's final pair stands for is `2^F log2(x)`, up to the rounding of the iterations. -/
theorem kernel_pairLog_bounds {p : Params} {x : Nat} (hw : p.w = 2 ^ p.s) (hw2 : 2 ≤ p.w)
    (hpos : 0 < x) (hx : x < 2 ^ p.w) :
    2 ^ p.f * Real.logb 2 x - (2 ^ p.f - 1) * (3 / 4 * mantissaUlp p.w) ≤ pairLog p.w (kernel p x) ∧
      pairLog p.w (kernel p x) ≤ 2 ^ p.f * Real.logb 2 x + (2 ^ p.f - 1) * (1 / 2 * mantissaUlp p.w) := by
  have hk : hsb p.s x < p.w := hw ▸ hsb_lt hpos (hw ▸ hx)
  rw [← pairLog_normalise (w := p.w) hpos (Nat.le_sub_one_of_lt hk)]
  exact iterLoop_pairLog_bounds p.f hw2 (normalise_hsb_normalised hw hpos hx)

/-- Settles O18: flooring the final pair loses less than 1, and the `F` iterations lose less than 0.14
and gain less than 0.1. -/
theorem kernelErrorIsBounded : Obligations.KernelErrorIsBounded := by
  unfold Obligations.KernelErrorIsBounded
  intro op hop x hpos hx
  obtain ⟨hw, hw2, hwf⟩ := paramsOf_widths hop
  obtain ⟨hfloor, hceil⟩ := kernel_pairLog_floor hw hw2 hpos hx
  obtain ⟨hlow, hhigh⟩ := kernel_pairLog_bounds hw hw2 hpos hx
  have hulp := two_pow_mul_mantissaUlp_lt hwf
  have hulpPos := mantissaUlp_pos (paramsOf op).w
  constructor <;> linarith

end Sys2Proof.Machine
end

section
/-! What the three parameter sets (00_scope.md R4) share, and what the three operations hand to `ISSUE`
(40_sequencer.md R55). -/

namespace Sys2Proof.Machine

theorem toNat_ofNat_of_lt {w n : Nat} (h : n < 2 ^ w) : (BitVec.ofNat w n).toNat = n := by
  rw [BitVec.toNat_ofNat, Nat.mod_eq_of_lt h]

/-- The sizes of the registers of 10_state.md R12 hold what the parameters ask for. -/
theorem paramsOf_sizes {op : BitVec 2} (h : op ≠ 0b11#2) :
    (paramsOf op).w ≤ 32 ∧ (paramsOf op).w < 2 ^ (paramsOf op).o ∧ 0 < (paramsOf op).f ∧
      (paramsOf op).f < 32 ∧ (paramsOf op).s + (paramsOf op).f ≤ (paramsOf op).o ∧
      (paramsOf op).o ≤ 32 := by
  obtain rfl | rfl | rfl := opSelect_cases h <;> simp

/-- `H` starts as half the width, which fits its five bits and is one of the half-widths of
40_sequencer.md R56. -/
theorem paramsOf_half {op : BitVec 2} (h : op ≠ 0b11#2) :
    (BitVec.ofNat 5 ((paramsOf op).w / 2) = 16#5 ∨ BitVec.ofNat 5 ((paramsOf op).w / 2) = 8#5) ∧
      2 * (BitVec.ofNat 5 ((paramsOf op).w / 2)).toNat = (paramsOf op).w := by
  obtain rfl | rfl | rfl := opSelect_cases h <;> simp

end Sys2Proof.Machine

namespace Sys2Proof

open Machine

theorem Instr.opSelect_ne {i : Instr} (hi : i ≠ .reserved) : i.opSelect ≠ 0b11#2 := by
  cases i with
  | reserved => exact absurd rfl hi
  | log2U16 u | log2U32 u | log2I32 v => simp [Instr.opSelect]

theorem Instr.magnitude_lt {i : Instr} (hi : i ≠ .reserved) :
    i.magnitude.toNat < 2 ^ (paramsOf i.opSelect).w := by
  cases i with
  | reserved => exact absurd rfl hi
  | log2U16 u =>
    simpa [Instr.magnitude, Instr.opSelect, magnitudeU16] using Nat.lt_of_le_of_lt (Nat.mod_le _ _) u.isLt
  | log2U32 u => simpa [Instr.opSelect] using BitVec.isLt _
  | log2I32 v => simpa [Instr.opSelect] using BitVec.isLt _

theorem Instr.coreStepCount_eq {i : Instr} (hi : i ≠ .reserved) :
    i.coreStepCount = (paramsOf i.opSelect).s + 1 + (paramsOf i.opSelect).f + 1 := by
  cases i with
  | reserved => exact absurd rfl hi
  | log2U16 u | log2U32 u | log2I32 v => simp [Instr.coreStepCount, Instr.opSelect]

/-- A magnitude is zero exactly for a zero operand (60_exceptions.md R112). -/
theorem Instr.conditionOf_magnitude {i : Instr} (hi : i ≠ .reserved) :
    conditionOf i.magnitude = i.condition := by
  cases i with
  | reserved => exact absurd rfl hi
  | log2U16 u =>
    have hzero : magnitudeU16 u = 0#32 ↔ u = 0#16 := by
      rw [magnitudeU16, ← BitVec.toNat_inj, ← BitVec.toNat_inj,
        BitVec.toNat_setWidth_of_le (by decide)]
      rfl
    simp [Instr.magnitude, Instr.condition, conditionOf, hzero]
  | log2U32 u => rfl
  | log2I32 v =>
    have hzero : magnitudeI32 v = 0#32 ↔ v = 0#32 := by
      rw [magnitudeI32]
      split
      · exact BitVec.neg_eq_zero_iff
      · exact Iff.rfl
    simp [Instr.magnitude, Instr.condition, conditionOf, hzero]

end Sys2Proof

namespace Sys2Proof.Machine

theorem State.issued_eq_issue {i : Instr} (hi : i ≠ .reserved) (s : State) :
    s.issued i = s.issue i.opSelect i.magnitude i.sign := by
  cases i with
  | reserved => exact absurd rfl hi
  | log2U16 u | log2U32 u | log2I32 v => rfl

theorem State.issued_reserved (s : State) : s.issued .reserved = s.issueReserved := rfl

/-- `ISSUE` leaves `IDLE`. -/
theorem State.issued_ph_ne_idle (s : State) (i : Instr) : (s.issued i).ph ≠ .idle := by
  cases i <;> simp [State.issued, State.issue, State.issueReserved]

/-- `ISSUE` writes none of the host's fields. -/
theorem State.issued_frame (s : State) (i : Instr) :
    (s.issued i).host = s.host ∧ (s.issued i).inFlight = s.inFlight ∧
      (s.issued i).answered = s.answered ∧ (s.issued i).issues = s.issues ∧
      (s.issued i).takes = s.takes ∧ (s.issued i).tick = s.tick := by
  cases i <;> simp [State.issued, State.issue, State.issueReserved]

end Sys2Proof.Machine
end

section
/-! One scan step and one iteration within their windows (41_hsb_detector.md R71,
42_mantissa_recurrence.md R86, R88, R90). -/

namespace Sys2Proof.Machine

/-- One scan step of a `V` below `2^(2h)` that is `X` shifted by `Y`: the new `V` is `X` shifted by the
new `Y` and fits the half window; it is 0 only if `V` was, and then `Y` stays (R71, R72). -/
theorem scanStep_window {h v y x : Nat} (hv : v < 2 ^ (2 * h)) (hx : v = x >>> y) :
    (scanStep h (v, y)).1 = x >>> (scanStep h (v, y)).2 ∧ (scanStep h (v, y)).1 < 2 ^ h ∧
      (scanStep h (v, y)).1 ≤ v ∧ (scanStep h (v, y)).2 ≤ y + h ∧
      (v ≠ 0 → (scanStep h (v, y)).1 ≠ 0) ∧ (v = 0 → (scanStep h (v, y)).2 = y) := by
  have hiff := scanHit_iff_le hv
  have hpos := Nat.two_pow_pos h
  cases hit : scanHit h v with
  | true =>
    have hle : 2 ^ h ≤ v := hiff.mp hit
    have hlt : v / 2 ^ h < 2 ^ h := by
      rwa [Nat.div_lt_iff_lt_mul hpos, ← Nat.pow_add, ← Nat.two_mul]
    have hne : v / 2 ^ h ≠ 0 := (Nat.div_pos hle hpos).ne'
    rw [scanStep_hit hit]
    refine ⟨by rw [hx, Nat.shiftRight_add], ?_, Nat.shiftRight_le _ _, le_rfl, fun _ => ?_, ?_⟩
    · rwa [Nat.shiftRight_eq_div_pow]
    · rwa [Nat.shiftRight_eq_div_pow]
    · omega
  | false =>
    have hlt : v < 2 ^ h := Nat.lt_of_not_le fun hle => by simp [hiff.mpr hle] at hit
    rw [scanStep_miss hit]
    exact ⟨hx, hlt, le_rfl, Nat.le_add_right _ _, id, fun _ => rfl⟩

/-- An accumulator of `n` bits grows by one bit in an iteration (R88). -/
theorem iterStep_snd_lt {w m y n : Nat} (hy : y < 2 ^ n) : (iterStep w (m, y)).2 < 2 ^ (n + 1) := by
  have hbit := Bool.toNat_le (overflowBit w (productPlusOffset w m))
  simp only [iterStep, insertBit_eq, Nat.pow_succ]
  omega

/-- An iteration keeps the zero mantissa (R90). -/
theorem iterStep_zero_fst {w : Nat} (hw : 2 ≤ w) (y : Nat) : (iterStep w (0, y)).1 = 0 := by
  have hlt : offset w < 2 ^ (w - 1) := Nat.pow_lt_pow_right (by decide) (by omega)
  have hle : 2 ^ (w - 1) ≤ 2 ^ (w - 1 + (overflowBit w (productPlusOffset w 0)).toNat) :=
    Nat.pow_le_pow_right (by decide) (Nat.le_add_right _ _)
  change renormalise w (productPlusOffset w 0) = 0
  rw [renormalise_eq_div (by omega), Nat.div_eq_zero_iff_lt (Nat.two_pow_pos _)]
  simpa [productPlusOffset, square] using hlt.trans_le hle

end Sys2Proof.Machine
end

section
/-! O52, O53 and O54: the width bounds of 10_state.md R24. -/

namespace Sys2Proof.Machine

theorem State.bounded_of_rest {s : State} (h : s.ph = .idle ∨ s.ph = .done) : s.Bounded := by
  rcases h with h | h <;> simp [State.Bounded, h]

theorem State.bounded_scan {s : State} (h : s.ph = .scan) :
    s.Bounded ↔ s.operandInRange ∧ s.halfWidth ∧ s.v.toNat = s.x.toNat >>> s.y.toNat ∧
      s.v.toNat < 2 ^ (2 * s.h.toNat) ∧ s.y.toNat + 2 * s.h.toNat ≤ (paramsOf s.opr).w ∧
      (s.x ≠ 0#32 → s.v ≠ 0#32) ∧ (s.x = 0#32 → s.y = 0#32) := by
  simp [State.Bounded, h]

theorem State.bounded_norm {s : State} (h : s.ph = .norm) :
    s.Bounded ↔ s.operandInRange ∧ s.y.toNat < (paramsOf s.opr).w ∧
      (s.x ≠ 0#32 → 2 ^ s.y.toNat ≤ s.x.toNat ∧ s.x.toNat < 2 ^ (s.y.toNat + 1)) ∧
      (s.x = 0#32 → s.y = 0#32) := by
  simp [State.Bounded, h]

theorem State.bounded_iter {s : State} (h : s.ph = .iter) :
    s.Bounded ↔ s.operandInRange ∧ s.mantissaInRange ∧ s.cnt.toNat < (paramsOf s.opr).f ∧
      s.y.toNat < 2 ^ ((paramsOf s.opr).s + s.cnt.toNat) := by
  simp [State.Bounded, h]

theorem State.bounded_fin {s : State} (h : s.ph = .fin) :
    s.Bounded ↔ s.operandInRange ∧ s.mantissaInRange ∧ s.cnt.toNat = (paramsOf s.opr).f ∧
      s.y.toNat < 2 ^ ((paramsOf s.opr).s + (paramsOf s.opr).f) := by
  simp [State.Bounded, h]

/-- The bounds speak of the registers only, so the host's bookkeeping keeps them. -/
theorem State.bounded_advance {s : State} : s.advance.Bounded ↔ s.Bounded := Iff.rfl

theorem State.bounded_note {s : State} {c : CmdWord} : (s.note c).Bounded ↔ s.Bounded := Iff.rfl

/-! The registers as numbers: nothing is lost when they are written -/

/-- `V` and `Y` after `SCAN` are the scanned pair. -/
theorem State.scan_toNat {s : State} (hb : s.Bounded) (hph : s.ph = .scan) :
    s.scan.v.toNat = (scanStep s.h.toNat (s.v.toNat, s.y.toNat)).1 ∧
      s.scan.y.toNat = (scanStep s.h.toNat (s.v.toNat, s.y.toNat)).2 := by
  obtain ⟨⟨hopr, -, -⟩, -, hshift, hwindow, hroom, -, -⟩ := (State.bounded_scan hph).mp hb
  obtain ⟨-, -, hle, hy, -, -⟩ := scanStep_window hwindow hshift
  obtain ⟨hw, -⟩ := paramsOf_sizes hopr
  constructor
  · exact toNat_ofNat_of_lt (hle.trans_lt s.v.isLt)
  · exact toNat_ofNat_of_lt (by omega)

theorem State.m_lt {s : State} (hm : s.mantissaInRange) : s.m.toNat < 2 ^ (paramsOf s.opr).w := by
  obtain ⟨hpos, hzero⟩ := hm
  by_cases hx : s.x = 0#32
  · simp [hzero hx]
  · exact (hpos hx).2

/-- `M[W-1:0]` is all of `M`. -/
theorem State.iterated_eq {s : State} (hm : s.mantissaInRange) :
    s.iterated = iterStep (paramsOf s.opr).w (s.m.toNat, s.y.toNat) := by
  rw [State.iterated, Nat.mod_eq_of_lt (State.m_lt hm)]

/-- The mantissa after an iteration is normalised, or stays 0 (R86, R90). -/
theorem State.iterated_fst_inRange {s : State} (hopr : s.opr ≠ 0b11#2) (hm : s.mantissaInRange) :
    (s.x ≠ 0#32 → Normalised (paramsOf s.opr).w s.iterated.1) ∧ (s.x = 0#32 → s.iterated.1 = 0) := by
  obtain ⟨-, hw, -⟩ := paramsOf_widths hopr
  rw [State.iterated_eq hm]
  refine ⟨fun hx => renormalise_normalised (by omega) (hm.1 hx), fun hx => ?_⟩
  rw [hm.2 hx]
  exact iterStep_zero_fst hw _

/-- `M` and `Y` after `ITER` are the iterated pair. -/
theorem State.iter_toNat {s : State} (hb : s.Bounded) (hph : s.ph = .iter) :
    s.iter.m.toNat = s.iterated.1 ∧ s.iter.y.toNat = s.iterated.2 ∧
      s.iter.cnt.toNat = s.cnt.toNat + 1 := by
  obtain ⟨⟨hopr, -, -⟩, hm, hcnt, hy⟩ := (State.bounded_iter hph).mp hb
  obtain ⟨hw, -, -, hf, hsf, ho⟩ := paramsOf_sizes hopr
  obtain ⟨hnormal, hzero⟩ := State.iterated_fst_inRange hopr hm
  have hmlt : s.iterated.1 < 2 ^ 64 := by
    by_cases hx : s.x = 0#32
    · simp [hzero hx]
    · exact (hnormal hx).2.trans_le (Nat.pow_le_pow_right (by decide) (by omega))
  have hylt : s.iterated.2 < 2 ^ 32 :=
    (iterStep_snd_lt hy).trans_le (Nat.pow_le_pow_right (by decide) (by omega))
  refine ⟨toNat_ofNat_of_lt hmlt, toNat_ofNat_of_lt hylt, ?_⟩
  change (s.cnt + 1#5).toNat = _
  rw [BitVec.toNat_add_of_lt (by simp; omega)]
  rfl

/-- `M` after `NORM` is the normalised magnitude. -/
theorem State.norm_m_toNat {s : State} (hb : s.Bounded) (hph : s.ph = .norm) :
    s.norm.m.toNat = normalise (paramsOf s.opr).w s.x.toNat s.y.toNat := by
  obtain ⟨⟨hopr, hx, -⟩, hy, -, -⟩ := (State.bounded_norm hph).mp hb
  obtain ⟨hw, -⟩ := paramsOf_sizes hopr
  change s.normalised.toNat = _
  rw [State.normalised, if_pos hy]
  refine toNat_ofNat_of_lt ?_
  rw [normalise, Nat.shiftLeft_eq]
  calc s.x.toNat * 2 ^ ((paramsOf s.opr).w - 1 - s.y.toNat)
      < 2 ^ 32 * 2 ^ ((paramsOf s.opr).w - 1 - s.y.toNat) :=
        Nat.mul_lt_mul_of_pos_right s.x.isLt (Nat.two_pow_pos _)
    _ ≤ 2 ^ 32 * 2 ^ 32 := Nat.mul_le_mul_left _ (Nat.pow_le_pow_right (by decide) (by omega))
    _ = 2 ^ 64 := rfl

/-! Each step keeps the bounds -/

/-- The half-width of the next `SCAN` step (40_sequencer.md R56). -/
theorem State.halfWidth_next {s : State} (h : s.halfWidth) (hne : s.h ≠ 1#5) :
    s.scan.halfWidth ∧ 2 * s.scan.h.toNat = s.h.toNat := by
  rcases h with h | h | h | h | h
  case inr.inr.inr.inr => exact absurd h hne
  all_goals simp [State.halfWidth, State.scan, h]

/-- What `SCAN` keeps, whether another step or `NORM` follows (R71, R72). -/
theorem State.scan_keeps {s : State} (hb : s.Bounded) (hph : s.ph = .scan) :
    s.scan.operandInRange ∧ s.scan.v.toNat = s.x.toNat >>> s.scan.y.toNat ∧
      s.scan.v.toNat < 2 ^ s.h.toNat ∧ s.scan.y.toNat ≤ s.y.toNat + s.h.toNat ∧
      (s.x ≠ 0#32 → s.scan.v.toNat ≠ 0) ∧ (s.x = 0#32 → s.scan.y = 0#32) := by
  obtain ⟨hv', hy'⟩ := State.scan_toNat hb hph
  obtain ⟨⟨hopr, hx, hv⟩, -, hshift, hwindow, -, hvne, hyz⟩ := (State.bounded_scan hph).mp hb
  obtain ⟨hshift', hwindow', hle, hyle, hne, hzero⟩ := scanStep_window hwindow hshift
  rw [← hv', ← hy'] at hshift'
  rw [← hv'] at hwindow' hle hne
  rw [← hy'] at hyle hzero
  refine ⟨⟨hopr, hx, hle.trans_lt hv⟩, hshift', hwindow', hyle,
    fun h => hne fun hz => hvne h (BitVec.eq_of_toNat_eq hz), fun h => ?_⟩
  have hv0 : s.v.toNat = 0 := by simp [hshift, h]
  exact (BitVec.eq_of_toNat_eq (hzero hv0)).trans (hyz h)

theorem State.scan_bounded {s : State} (hb : s.Bounded) (hph : s.ph = .scan) : s.scan.Bounded := by
  obtain ⟨hoperand, hshift, hwindow, hyle, hvne, hyz⟩ := State.scan_keeps hb hph
  obtain ⟨-, hhalf, -, -, hroom, -, -⟩ := (State.bounded_scan hph).mp hb
  by_cases hlast : s.h = 1#5
  · have hone : s.h.toNat = 1 := by rw [hlast]; rfl
    rw [hone] at hwindow hyle hroom
    refine (State.bounded_norm (if_pos hlast)).mpr ⟨hoperand, ?_, fun h => ?_, hyz⟩
    · change s.scan.y.toNat < (paramsOf s.opr).w
      omega
    · have hv1 : s.scan.v.toNat = 1 := by
        have := hvne h
        omega
      have hpos := Nat.two_pow_pos s.scan.y.toNat
      rw [hv1, Nat.shiftRight_eq_div_pow, eq_comm, Nat.div_eq_iff hpos] at hshift
      change _ ≤ s.x.toNat ∧ s.x.toNat < _
      rw [Nat.pow_succ]
      omega
  · obtain ⟨hhalf', hdouble⟩ := State.halfWidth_next hhalf hlast
    refine (State.bounded_scan (if_neg hlast)).mpr ⟨hoperand, hhalf', hshift, by rwa [hdouble], ?_,
      fun h hz => hvne h (congrArg BitVec.toNat hz), hyz⟩
    change s.scan.y.toNat + 2 * s.scan.h.toNat ≤ (paramsOf s.opr).w
    omega

theorem State.norm_bounded {s : State} (hb : s.Bounded) (hph : s.ph = .norm) : s.norm.Bounded := by
  have hm := State.norm_m_toNat hb hph
  obtain ⟨hoperand, hy, hlog, -⟩ := (State.bounded_norm hph).mp hb
  obtain ⟨-, -, hf, -⟩ := paramsOf_sizes hoperand.1
  obtain ⟨hw, -⟩ := paramsOf_widths hoperand.1
  have hmantissa : s.norm.mantissaInRange := by
    refine ⟨fun h => ?_, fun h => BitVec.eq_of_toNat_eq ?_⟩
    · obtain ⟨hlo, hhi⟩ := hlog h
      rw [hm]
      exact normalise_normalised hy hlo hhi
    · rw [hm, show s.x = 0#32 from h]
      simp [normalise]
  refine (State.bounded_iter rfl).mpr ⟨hoperand, hmantissa, hf, ?_⟩
  rwa [hw] at hy

theorem State.iter_bounded {s : State} (hb : s.Bounded) (hph : s.ph = .iter) : s.iter.Bounded := by
  obtain ⟨hm', hy', hcnt'⟩ := State.iter_toNat hb hph
  obtain ⟨hoperand, hm, hcnt, hy⟩ := (State.bounded_iter hph).mp hb
  obtain ⟨hnormal, hzero⟩ := State.iterated_fst_inRange hoperand.1 hm
  have hmantissa : s.iter.mantissaInRange :=
    ⟨fun h => hm' ▸ hnormal h, fun h => BitVec.eq_of_toNat_eq (hm'.trans (hzero h))⟩
  have hylt : s.iter.y.toNat < 2 ^ ((paramsOf s.opr).s + s.iter.cnt.toNat) := by
    rw [hy', hcnt']
    exact iterStep_snd_lt hy
  by_cases hlast : s.cnt.toNat + 1 = (paramsOf s.opr).f
  · have hend : s.iter.cnt.toNat = (paramsOf s.opr).f := hcnt'.trans hlast
    exact (State.bounded_fin (if_pos hlast)).mpr ⟨hoperand, hmantissa, hend, hend ▸ hylt⟩
  · refine (State.bounded_iter (if_neg hlast)).mpr ⟨hoperand, hmantissa, ?_, hylt⟩
    rw [hcnt']
    change _ < (paramsOf s.opr).f
    omega

theorem State.coreStep_bounded {s : State} (hb : s.Bounded) : s.coreStep.Bounded := by
  rcases s.coreStep_cases with ⟨hph, h⟩ | ⟨hph, h⟩ | ⟨hph, h⟩ | ⟨hph, h⟩ | ⟨-, h⟩ <;> rw [h]
  · exact State.scan_bounded hb hph
  · exact State.norm_bounded hb hph
  · exact State.iter_bounded hb hph
  · exact State.bounded_of_rest (.inr rfl)
  · exact hb

theorem State.coreSteps_bounded (n : Nat) {s : State} (hb : s.Bounded) :
    (State.coreSteps n s).Bounded := by
  induction n generalizing s with
  | zero => exact hb
  | succ n ih => exact ih (State.coreStep_bounded hb)

/-- `ISSUE` of one of the three operations opens the scan of the whole width (40_sequencer.md R55). -/
theorem State.issue_bounded {s : State} {op : BitVec 2} {mag : BitVec 32} {neg : BitVec 1}
    (hop : op ≠ 0b11#2) (hmag : mag.toNat < 2 ^ (paramsOf op).w) : (s.issue op mag neg).Bounded := by
  obtain ⟨hhalf, hwidth⟩ := paramsOf_half hop
  refine (State.bounded_scan (s := s.issue op mag neg) rfl).mpr
    ⟨⟨hop, hmag, hmag⟩, hhalf.imp id .inl, rfl, ?_, ?_, id, fun _ => rfl⟩
  · change mag.toNat < 2 ^ (2 * (BitVec.ofNat 5 ((paramsOf op).w / 2)).toNat)
    rwa [hwidth]
  · change 0 + 2 * (BitVec.ofNat 5 ((paramsOf op).w / 2)).toNat ≤ (paramsOf op).w
    omega

theorem State.issued_bounded (s : State) (i : Instr) : (s.issued i).Bounded := by
  by_cases hi : i = .reserved
  · rw [hi]
    exact State.bounded_of_rest (.inr rfl)
  · rw [State.issued_eq_issue hi]
    exact State.issue_bounded (Instr.opSelect_ne hi) (Instr.magnitude_lt hi)

/-- Settles O52: an accepted command opens a bounded scan, core steps keep the bounds, and `RESET` and
`TAKE` lead to `IDLE`. -/
theorem stepKeepsBounded : Obligations.StepKeepsBounded := by
  unfold Obligations.StepKeepsBounded
  intro s t hb hstep
  rcases step_cases hstep with ⟨-, rfl⟩ | ⟨-, rfl⟩ | ⟨-, -, -, rfl⟩ | ⟨-, -, -, rfl⟩
  · exact State.bounded_advance.mpr (State.bounded_note.mpr
      (State.coreSteps_bounded _ (s.issued_bounded _)))
  · exact State.bounded_of_rest (.inl rfl)
  · exact State.bounded_of_rest (.inl rfl)
  · exact State.bounded_advance.mpr (State.coreSteps_bounded _ (State.coreStep_bounded hb))

/-- Settles O53: `IDLE` asks for nothing. -/
theorem resetBounded : Obligations.ResetBounded := State.bounded_of_rest (.inl rfl)

/-- An accumulator after at most `F` iterations fits the output width (R88). -/
theorem State.y_lt_output {s : State} {n : Nat} (hopr : s.opr ≠ 0b11#2) (hn : n ≤ (paramsOf s.opr).f)
    (hy : s.y.toNat < 2 ^ ((paramsOf s.opr).s + n)) : s.y.toNat < 2 ^ (paramsOf s.opr).o := by
  obtain ⟨-, -, -, -, hsf, -⟩ := paramsOf_sizes hopr
  exact hy.trans_le (Nat.pow_le_pow_right (by decide) (by omega))

/-- Settles O54, phase by phase. -/
theorem boundedGivesTheWidths : Obligations.BoundedGivesTheWidths := by
  unfold Obligations.BoundedGivesTheWidths
  intro s hb hidle hdone
  cases hph : s.ph with
  | idle => exact absurd hph hidle
  | done => exact absurd hph hdone
  | scan =>
    obtain ⟨⟨hopr, hx, hv⟩, -, -, hwindow, hroom, -, -⟩ := (State.bounded_scan hph).mp hb
    obtain ⟨-, hwo, -⟩ := paramsOf_sizes hopr
    exact ⟨hx, hv, by omega, fun _ => hwindow, by simp⟩
  | norm =>
    obtain ⟨⟨hopr, hx, hv⟩, hy, -, -⟩ := (State.bounded_norm hph).mp hb
    obtain ⟨-, hwo, -⟩ := paramsOf_sizes hopr
    exact ⟨hx, hv, hy.trans hwo, by simp, by simp⟩
  | iter =>
    obtain ⟨⟨hopr, hx, hv⟩, hm, hcnt, hy⟩ := (State.bounded_iter hph).mp hb
    exact ⟨hx, hv, State.y_lt_output hopr hcnt.le hy, by simp,
      fun _ => ⟨hcnt.le, fun h => (hm.1 h).1, State.m_lt hm, hm.2⟩⟩
  | fin =>
    obtain ⟨⟨hopr, hx, hv⟩, hm, hcnt, hy⟩ := (State.bounded_fin hph).mp hb
    exact ⟨hx, hv, State.y_lt_output hopr le_rfl hy, by simp,
      fun _ => ⟨hcnt.le, fun h => (hm.1 h).1, State.m_lt hm, hm.2⟩⟩

end Sys2Proof.Machine
end

section
/-! The run of one operation from its `ISSUE` to `DONE` (40_sequencer.md R55 to R61). -/

namespace Sys2Proof.Machine

theorem State.coreStep_of_scan {s : State} (h : s.ph = .scan) : s.coreStep = s.scan := by
  simp [State.coreStep, h]

theorem State.coreStep_of_norm {s : State} (h : s.ph = .norm) : s.coreStep = s.norm := by
  simp [State.coreStep, h]

theorem State.coreStep_of_iter {s : State} (h : s.ph = .iter) : s.coreStep = s.iter := by
  simp [State.coreStep, h]

theorem State.coreStep_of_fin {s : State} (h : s.ph = .fin) : s.coreStep = s.fin := by
  simp [State.coreStep, h]

/-- The rest of a scan whose next half-width is `2^n` is the detector's loop (41_hsb_detector.md R69). -/
theorem State.coreSteps_of_scan {n : Nat} {s : State} (hb : s.Bounded) (hph : s.ph = .scan)
    (hh : s.h.toNat = 2 ^ n) :
    State.coreSteps (n + 1) s =
      { s with
        v := BitVec.ofNat 32 (scanLoop (n + 1) (s.v.toNat, s.y.toNat)).1
        y := BitVec.ofNat 32 (scanLoop (n + 1) (s.v.toNat, s.y.toNat)).2
        h := 0#5
        ph := .norm } := by
  induction n generalizing s with
  | zero =>
    have hone : s.h = 1#5 := BitVec.eq_of_toNat_eq hh
    rw [State.coreSteps_succ, State.coreStep_of_scan hph, State.scan, hh, if_pos hone]
    rfl
  | succ n ih =>
    have hne : s.h ≠ 1#5 := by
      intro hone
      have := Nat.two_pow_pos n
      rw [hone, Nat.pow_succ] at hh
      simp at hh
      omega
    obtain ⟨hv, hy⟩ := State.scan_toNat hb hph
    obtain ⟨-, hhalf, -⟩ := (State.bounded_scan hph).mp hb
    obtain ⟨-, hdouble⟩ := State.halfWidth_next hhalf hne
    have hh' : s.scan.h.toNat = 2 ^ n := by
      rw [Nat.pow_succ] at hh
      omega
    rw [State.coreSteps_succ, State.coreStep_of_scan hph,
      ih (State.scan_bounded hb hph) (if_neg hne) hh', hv, hy, hh, scanLoop_succ (n + 1)]
    rfl

/-- The rest of the iterations, `k + 1` of them, is the recurrence's loop (42_mantissa_recurrence.md
R83). -/
theorem State.coreSteps_of_iter {k : Nat} {s : State} (hb : s.Bounded) (hph : s.ph = .iter)
    (hcnt : s.cnt.toNat + (k + 1) = (paramsOf s.opr).f) :
    State.coreSteps (k + 1) s =
      { s with
        m := BitVec.ofNat 64 (iterLoop (paramsOf s.opr).w (k + 1) (s.m.toNat, s.y.toNat)).1
        y := BitVec.ofNat 32 (iterLoop (paramsOf s.opr).w (k + 1) (s.m.toNat, s.y.toNat)).2
        cnt := BitVec.ofNat 5 (paramsOf s.opr).f
        ph := .fin } := by
  induction k generalizing s with
  | zero =>
    obtain ⟨-, -, hcnt'⟩ := State.iter_toNat hb hph
    obtain ⟨-, hm, -, -⟩ := (State.bounded_iter hph).mp hb
    have hend : s.cnt + 1#5 = BitVec.ofNat 5 (paramsOf s.opr).f := by
      rw [← hcnt, ← hcnt', BitVec.ofNat_toNat, BitVec.setWidth_eq]
      rfl
    rw [State.coreSteps_succ, State.coreStep_of_iter hph, State.iter, State.iterated_eq hm, if_pos hcnt,
      hend]
    rfl
  | succ k ih =>
    obtain ⟨hm', hy', hcnt'⟩ := State.iter_toNat hb hph
    obtain ⟨-, hm, -, -⟩ := (State.bounded_iter hph).mp hb
    have hgo : s.cnt.toNat + 1 ≠ (paramsOf s.opr).f := by omega
    have hnext : s.iter.cnt.toNat + (k + 1) = (paramsOf s.iter.opr).f := by
      rw [hcnt']
      change _ = (paramsOf s.opr).f
      omega
    rw [State.coreSteps_succ, State.coreStep_of_iter hph,
      ih (State.iter_bounded hb hph) (if_neg hgo) hnext, hm', hy', State.iterated_eq hm,
      iterLoop_succ _ (k + 1)]
    rfl

/-- The first half-width of the scan is `2^(S-1)` (40_sequencer.md R55). -/
theorem paramsOf_half_eq_two_pow {op : BitVec 2} (h : op ≠ 0b11#2) :
    (BitVec.ofNat 5 ((paramsOf op).w / 2)).toNat = 2 ^ ((paramsOf op).s - 1) ∧ 1 ≤ (paramsOf op).s := by
  obtain rfl | rfl | rfl := opSelect_cases h <;> simp

theorem scanLoop_zero_left (n y : Nat) : scanLoop n (0, y) = (0, y) := by
  induction n with
  | zero => rfl
  | succ n ih =>
    have miss : scanHit (2 ^ n) 0 = false := by simp [scanHit]
    rw [scanLoop_succ, scanStep_miss miss, ih]

/-- The detector's result is a bit position of the width, also for the zero magnitude (R71, R72). -/
theorem hsb_lt_width {op : BitVec 2} {x : Nat} (h : op ≠ 0b11#2) (hx : x < 2 ^ (paramsOf op).w) :
    hsb (paramsOf op).s x < (paramsOf op).w := by
  obtain ⟨hw, -⟩ := paramsOf_widths h
  rcases Nat.eq_zero_or_pos x with rfl | hpos
  · rw [hsb, scanLoop_zero_left, hw]
    exact Nat.two_pow_pos _
  · rw [hw] at hx ⊢
    exact hsb_lt hpos hx

/-- The registers of an operation before `NORM`: the scan has found the highest set bit. -/
def State.scanned (s : State) (op : BitVec 2) (mag : BitVec 32) (neg : BitVec 1) : State :=
  { s.issue op mag neg with
    v := BitVec.ofNat 32 (scanLoop (paramsOf op).s (mag.toNat, 0)).1
    y := BitVec.ofNat 32 (hsb (paramsOf op).s mag.toNat)
    h := 0#5
    ph := .norm }

/-- The registers of an operation before `FIN`: the kernel has run. -/
def State.iteratedToEnd (s : State) (op : BitVec 2) (mag : BitVec 32) (neg : BitVec 1) : State :=
  { s.scanned op mag neg with
    m := BitVec.ofNat 64 (kernel (paramsOf op) mag.toNat).1
    y := BitVec.ofNat 32 (log2Core (paramsOf op) mag.toNat)
    cnt := BitVec.ofNat 5 (paramsOf op).f
    ph := .fin }

section
variable {op : BitVec 2} {mag : BitVec 32} (hop : op ≠ 0b11#2) (hmag : mag.toNat < 2 ^ (paramsOf op).w)
  (s : State) (neg : BitVec 1)
include hop hmag

theorem State.coreSteps_issue_scan :
    State.coreSteps (paramsOf op).s (s.issue op mag neg) = s.scanned op mag neg := by
  obtain ⟨hhalf, hs⟩ := paramsOf_half_eq_two_pow hop
  have hrun := State.coreSteps_of_scan (State.issue_bounded (s := s) (neg := neg) hop hmag) rfl hhalf
  rw [Nat.sub_add_cancel hs] at hrun
  exact hrun

theorem State.scanned_bounded : (s.scanned op mag neg).Bounded :=
  State.coreSteps_issue_scan hop hmag s neg ▸ State.coreSteps_bounded _ (State.issue_bounded hop hmag)

theorem State.coreSteps_scanned :
    State.coreSteps (1 + (paramsOf op).f) (s.scanned op mag neg) = s.iteratedToEnd op mag neg := by
  have hb := State.scanned_bounded hop hmag s neg
  obtain ⟨hw, -, hf, -⟩ := paramsOf_sizes hop
  have hy : (s.scanned op mag neg).norm.y.toNat = hsb (paramsOf op).s mag.toNat := by
    have := hsb_lt_width hop hmag
    exact toNat_ofNat_of_lt (by omega)
  have hm : (s.scanned op mag neg).norm.m.toNat =
      normalise (paramsOf op).w mag.toNat (hsb (paramsOf op).s mag.toNat) := by
    rw [← hy]
    exact State.norm_m_toNat hb rfl
  have hrun := State.coreSteps_of_iter (k := (paramsOf op).f - 1) (State.norm_bounded hb rfl) rfl
    (by change 0 + _ = (paramsOf op).f; omega)
  rw [Nat.sub_add_cancel hf, hm, hy] at hrun
  rw [Nat.add_comm, State.coreSteps_succ, State.coreStep_of_norm rfl]
  exact hrun

/-- The whole operation: `S` scan steps, `NORM`, `F` iterations and `FIN` (40_sequencer.md R61). -/
theorem State.coreSteps_issue :
    State.coreSteps ((paramsOf op).s + 1 + (paramsOf op).f + 1) (s.issue op mag neg) =
      (s.iteratedToEnd op mag neg).fin := by
  rw [Nat.add_assoc (paramsOf op).s, State.coreSteps_add, State.coreSteps_add,
    State.coreSteps_issue_scan hop hmag, State.coreSteps_scanned hop hmag]
  exact State.coreStep_of_fin (s := s.iteratedToEnd op mag neg) rfl

end

theorem State.coreSteps_issued {i : Instr} (hi : i ≠ .reserved) (s : State) :
    State.coreSteps i.coreStepCount (s.issued i) =
      (s.iteratedToEnd i.opSelect i.magnitude i.sign).fin := by
  rw [Instr.coreStepCount_eq hi, State.issued_eq_issue hi]
  exact State.coreSteps_issue (Instr.opSelect_ne hi) (Instr.magnitude_lt hi) s i.sign

/-- The low half of `Y` as `FIN` reads it (30_encoding.md R44). -/
theorem extractLsb'_ofNat_low (n : Nat) : (BitVec.ofNat 32 n).extractLsb' 0 16 = BitVec.ofNat 16 n := by
  refine BitVec.eq_of_toNat_eq ?_
  simp only [BitVec.extractLsb'_toNat, BitVec.toNat_ofNat, Nat.shiftRight_zero]
  exact Nat.mod_mod_of_dvd n (by decide)

/-- What `FIN` assembles from the kernel's result is the result of the command (40_sequencer.md R59). -/
theorem State.assembled_iteratedToEnd {i : Instr} (hi : i ≠ .reserved) (s : State) :
    (s.iteratedToEnd i.opSelect i.magnitude i.sign).assembled = i.result := by
  cases i with
  | reserved => exact absurd rfl hi
  | log2U16 u =>
    change resultU16 (BitVec.ofNat 32 (log2Core _ (magnitudeU16 u).toNat)) = (closedU16 u).setWidth 32
    rw [resultU16, extractLsb'_ofNat_low, magnitudeU16, BitVec.toNat_setWidth_of_le (by decide)]
    rfl
  | log2U32 u => rfl
  | log2I32 v =>
    change (signedResult (signI32 v) (BitVec.ofNat 32 (log2Core _ (magnitudeI32 v).toNat))).signExtend 32
      = (closedI32 v).signExtend 32
    rw [signedResult, extractLsb'_ofNat_low]
    rfl

/-- A command ends in `DONE` with the response its rule gives, after the core steps of 40_sequencer.md
R61. -/
theorem State.issued_completes (s : State) (i : Instr) :
    (State.coreSteps i.coreStepCount (s.issued i)).ph = .done ∧
      (State.coreSteps i.coreStepCount (s.issued i)).response = i.response := by
  by_cases hi : i = .reserved
  · rw [hi]
    exact ⟨rfl, rfl⟩
  · rw [State.coreSteps_issued hi]
    refine ⟨rfl, ?_⟩
    change makeRsp (conditionOf i.magnitude).code (State.assembled _) = makeRsp _ _
    rw [Instr.conditionOf_magnitude hi, State.assembled_iteratedToEnd hi]

/-- Once the core rests, further steps change nothing. -/
theorem State.coreSteps_of_le {m n : Nat} {s : State} (hle : m ≤ n)
    (hph : (State.coreSteps m s).ph = .done) : State.coreSteps n s = State.coreSteps m s := by
  rw [← Nat.add_sub_cancel' hle, State.coreSteps_add, State.coreSteps_of_rest (.inr hph)]

theorem State.issued_done_of_le {n : Nat} {i : Instr} (h : i.coreStepCount ≤ n) (s : State) :
    (State.coreSteps n (s.issued i)).ph = .done ∧
      (State.coreSteps n (s.issued i)).response = i.response := by
  rw [State.coreSteps_of_le h (s.issued_completes i).1]
  exact s.issued_completes i

/-- In `DONE` the response is the command's, however many core steps led there. -/
theorem State.issued_response_of_done {n : Nat} {i : Instr} {s : State}
    (h : (State.coreSteps n (s.issued i)).ph = .done) :
    (State.coreSteps n (s.issued i)).response = i.response := by
  rw [← State.coreSteps_of_le (Nat.le_max_left n i.coreStepCount) h]
  exact (State.issued_done_of_le (Nat.le_max_right n i.coreStepCount) s).2

end Sys2Proof.Machine
end

section
/-! The core reads and writes the eleven registers only (10_state.md R12). -/

namespace Sys2Proof.Machine

/-- The registers of `t` with the host's fields of `s`. -/
def State.withHostOf (t s : State) : State :=
  { t with
    host := s.host
    inFlight := s.inFlight
    answered := s.answered
    issues := s.issues
    takes := s.takes
    tick := s.tick }

theorem State.eq_withHostOf {s t : State} (h : s.regs = t.regs) : s = t.withHostOf s := by
  obtain ⟨⟩ := s
  obtain ⟨⟩ := t
  simp only [State.regs, Prod.mk.injEq] at h
  simp [State.withHostOf, h]

theorem State.coreStep_withHostOf (t s : State) :
    (t.withHostOf s).coreStep = t.coreStep.withHostOf s := by
  cases h : t.ph <;> simp only [State.coreStep, h, State.withHostOf] <;> rfl

theorem State.coreStep_regs_congr {s t : State} (h : s.regs = t.regs) :
    s.coreStep.regs = t.coreStep.regs := by
  rw [State.eq_withHostOf h, State.coreStep_withHostOf]
  rfl

theorem State.coreSteps_regs_congr (n : Nat) {s t : State} (h : s.regs = t.regs) :
    (State.coreSteps n s).regs = (State.coreSteps n t).regs := by
  induction n generalizing s t with
  | zero => exact h
  | succ n ih => exact ih (State.coreStep_regs_congr h)

theorem State.ph_eq_of_regs {s t : State} (h : s.regs = t.regs) : s.ph = t.ph := by
  rw [State.eq_withHostOf h]
  rfl

theorem State.response_eq_of_regs {s t : State} (h : s.regs = t.regs) : s.response = t.response := by
  rw [State.eq_withHostOf h]
  rfl

end Sys2Proof.Machine
end

section
/-! O50, O51, O59: the block and its host agree (20_memory.md R36, 10_state.md R11). -/

namespace Sys2Proof.Machine

/-- In `IDLE`, agreement asks only for an empty flight and a correct record. -/
theorem State.tracks_of_idle {s : State} (hph : s.ph = .idle) (hflight : s.inFlight = none)
    (hrecord : ∀ e ∈ s.answered, e.rsp = (decode e.cmd).response) : s.Tracks :=
  ⟨fun _ => hflight, fun h => absurd hph h, hrecord⟩

/-- `TAKE` records the response of the command in flight (40_sequencer.md R65). -/
theorem State.recorded_of_inFlight {s : State} {c : CmdWord} (h : s.inFlight = some c) :
    s.recorded = s.answered ++ [{ cmd := c, rsp := s.response }] := by
  simp [State.recorded, h]

/-- In `DONE` a block that tracks its command holds the command's response (20_memory.md R36). -/
theorem State.Tracks.response_of_done {s : State} (ht : s.Tracks) (hph : s.ph = .done) :
    ∃ c, s.inFlight = some c ∧ s.response = (decode c).response := by
  obtain ⟨-, hbusy, -⟩ := ht
  obtain ⟨c, hflight, start, n, hregs⟩ := hbusy (by simp [hph])
  have hdone := (State.ph_eq_of_regs hregs).symm.trans hph
  exact ⟨c, hflight, (State.response_eq_of_regs hregs).trans (State.issued_response_of_done hdone)⟩

/-- An accepted command is tracked from its `ISSUE` on. -/
theorem State.Tracks.issue {s : State} (ht : s.Tracks) (c : CmdWord) (n : Nat) :
    ((State.coreSteps n (s.issued (decode c))).note c).Tracks := by
  obtain ⟨-, -, hrecord⟩ := ht
  have hbusy := State.coreSteps_ph_ne_idle (s.issued_ph_ne_idle (decode c)) n
  obtain ⟨-, -, hsteps, -⟩ := State.coreSteps_frame n (s.issued (decode c))
  obtain ⟨-, -, hissued, -⟩ := s.issued_frame (decode c)
  refine ⟨fun h => absurd h hbusy, fun _ => ⟨c, rfl, s, n, rfl⟩, ?_⟩
  rw [State.note_answered, hsteps, hissued]
  exact hrecord

theorem State.Tracks.coreStep {s : State} (ht : s.Tracks) : s.coreStep.Tracks := by
  by_cases hph : s.ph = .idle
  · rwa [State.coreStep_of_rest (.inl hph)]
  · obtain ⟨-, hbusy, hrecord⟩ := ht
    obtain ⟨c, hflight, start, n, hregs⟩ := hbusy hph
    obtain ⟨-, hflight', hrecord', -⟩ := s.coreStep_frame
    refine ⟨fun h => absurd h (State.coreStep_ph_ne_idle hph),
      fun _ => ⟨c, hflight'.trans hflight, start, n + 1, ?_⟩, hrecord' ▸ hrecord⟩
    rw [State.coreSteps_add]
    exact State.coreStep_regs_congr hregs

theorem State.Tracks.coreSteps (n : Nat) {s : State} (ht : s.Tracks) :
    (State.coreSteps n s).Tracks := by
  induction n generalizing s with
  | zero => exact ht
  | succ n ih => exact ih ht.coreStep

theorem State.Tracks.take {s : State} (ht : s.Tracks) (hph : s.ph = .done) : s.take.Tracks := by
  obtain ⟨c, hflight, hresponse⟩ := ht.response_of_done hph
  obtain ⟨-, -, hrecord⟩ := ht
  refine State.tracks_of_idle rfl rfl ?_
  rw [State.take_answered, State.recorded_of_inFlight hflight, List.forall_mem_append]
  exact ⟨hrecord, by simpa using hresponse⟩

/-- Settles O50: `ISSUE` starts to track, core steps go on, and at `TAKE` the whole operation has run, so
the response recorded is the command's. -/
theorem stepKeepsTracks : Obligations.StepKeepsTracks := by
  unfold Obligations.StepKeepsTracks
  intro s t ht hstep
  rcases step_cases hstep with ⟨-, rfl⟩ | ⟨-, rfl⟩ | ⟨-, hph, -, rfl⟩ | ⟨-, -, -, rfl⟩
  · exact ht.issue s.edge.cmd s.edge.coreRun
  · exact State.tracks_of_idle rfl rfl ht.2.2
  · exact ht.take hph
  · exact ht.coreStep.coreSteps s.edge.coreRun

/-- Settles O51: nothing is in flight or recorded. -/
theorem resetTracks : Obligations.ResetTracks :=
  State.tracks_of_idle rfl rfl fun _ he => absurd he List.not_mem_nil

/-- Settles O59: a run starts in `IDLE` with the record empty and the counts 0. -/
theorem runsStartCounted : Obligations.RunsStartCounted := by
  unfold Obligations.RunsStartCounted
  refine ⟨⟨rfl, Nat.le_refl 0⟩, fun s p cs hp => ?_⟩
  obtain ⟨hidle, rfl⟩ := withProgram_eq_some.mp hp
  exact ⟨⟨rfl, Nat.le_refl 0⟩,
    fun _ => State.tracks_of_idle hidle rfl fun _ he => absurd he List.not_mem_nil⟩

end Sys2Proof.Machine
end

section
/-! O49: one exchange (40_sequencer.md R65, 70_reset_and_hazards.md R136). -/

namespace Sys2Proof.Machine

@[simp] theorem Edge.offer_cmd (c : CmdWord) (n : Nat) : (Edge.offer c n).cmd = c := makeCmd_fields c

/-- The step at which an idle block accepts the offered command. -/
theorem step_offer {s : State} {c : CmdWord} {n : Nat} {es : List Edge} (hph : s.ph = .idle)
    (hhost : s.host = Edge.offer c n :: es) :
    step s = .next ((State.coreSteps n (s.issued (decode c))).note c).advance := by
  have hedge : s.edge = Edge.offer c n := by simp [State.edge, hhost]
  have haccepts : s.accepts = true := State.accepts_iff.mpr ⟨by rw [hedge]; rfl, hph, by rw [hedge]; rfl⟩
  rw [step_accepts haccepts, State.offered, hedge, Edge.offer_cmd]
  rfl

/-- The step at which the host takes the response. -/
theorem step_take {s : State} {es : List Edge} (hph : s.ph = .done) (hhost : s.host = Edge.take :: es) :
    step s = .next s.take.advance := by
  have hedge : s.edge = Edge.take := by simp [State.edge, hhost]
  have haccepts : s.accepts = false := by simp [State.accepts, hph]
  rw [step_otherwise haccepts, State.otherwise, hedge, if_neg (by decide), if_pos ⟨hph, rfl⟩]

/-- Settles O49: the first step runs the command to `DONE`, the second records its response. -/
theorem exchangeAnswersTheCommand : Obligations.ExchangeAnswersTheCommand := by
  unfold Obligations.ExchangeAnswersTheCommand
  intro s c n es hph hhost hn
  obtain ⟨hdone, hresponse⟩ := State.issued_done_of_le hn s
  obtain ⟨hhost', -, hanswered', hissues', htakes', -⟩ :=
    State.coreSteps_frame n (s.issued (decode c))
  obtain ⟨hhostI, -, hansweredI, hissuesI, htakesI, -⟩ := s.issued_frame (decode c)
  have htake : (((State.coreSteps n (s.issued (decode c))).note c).advance).host = Edge.take :: es := by
    simp [hhost', hhostI, hhost]
  refine ⟨_, _, step_offer hph hhost, step_take hdone htake, rfl, rfl, ?_, ?_, ?_, ?_⟩
  · simp [hhost', hhostI, hhost]
  · rw [State.advance_answered, State.take_answered, State.recorded_of_inFlight rfl,
      ← hresponse, State.advance_answered, State.note_answered, hanswered', hansweredI]
    rfl
  · simp [hissues', hissuesI]
  · simp [htakes', htakesI]

end Sys2Proof.Machine
end

section
/-! O35: no operation reads what an earlier one left (10_state.md R11). -/

namespace Sys2Proof.Machine

/-- Two states at the same point of the same operation: equal in every register it has written so far,
`M` and `CNT` from `NORM` on (40_sequencer.md R57), `RES` in `DONE` (R59). -/
structure State.SameOperation (a b : State) : Prop where
  ph : a.ph = b.ph
  opr : a.opr = b.opr
  neg : a.neg = b.neg
  x : a.x = b.x
  v : a.v = b.v
  h : a.h = b.h
  y : a.y = b.y
  st : a.st = b.st
  mantissa : a.ph ≠ .scan → a.ph ≠ .norm → a.m = b.m ∧ a.cnt = b.cnt
  res : a.ph = .done → a.res = b.res

namespace State.SameOperation

variable {a b : State}

theorem issue (a b : State) (op : BitVec 2) (mag : BitVec 32) (neg : BitVec 1) :
    SameOperation (a.issue op mag neg) (b.issue op mag neg) where
  ph := rfl
  opr := rfl
  neg := rfl
  x := rfl
  v := rfl
  h := rfl
  y := rfl
  st := rfl
  mantissa hscan := absurd rfl hscan
  res hdone := nomatch hdone

theorem scan (hab : SameOperation a b) : SameOperation a.scan b.scan where
  ph := by simp only [State.scan, hab.h]
  opr := hab.opr
  neg := hab.neg
  x := hab.x
  v := by simp only [State.scan, hab.h, hab.v, hab.y]
  h := by simp only [State.scan, hab.h]
  y := by simp only [State.scan, hab.h, hab.v, hab.y]
  st := hab.st
  mantissa hscan hnorm := by
    by_cases hlast : a.h = 1#5
    · exact absurd (if_pos hlast) hnorm
    · exact absurd (if_neg hlast) hscan
  res hdone := by
    by_cases hlast : a.h = 1#5 <;> simp [State.scan, hlast] at hdone

theorem norm (hab : SameOperation a b) : SameOperation a.norm b.norm where
  ph := rfl
  opr := hab.opr
  neg := hab.neg
  x := hab.x
  v := hab.v
  h := hab.h
  y := hab.y
  st := hab.st
  mantissa _ _ := by simp only [State.norm, State.normalised, hab.opr, hab.x, hab.y, and_self]
  res hdone := nomatch hdone

theorem iter (hab : SameOperation a b) (hph : a.ph = .iter) : SameOperation a.iter b.iter := by
  obtain ⟨hm, hcnt⟩ := hab.mantissa (by simp [hph]) (by simp [hph])
  have hpair : a.iterated = b.iterated := by simp only [State.iterated, hab.opr, hm, hab.y]
  exact {
    ph := by simp only [State.iter, hcnt, hab.opr]
    opr := hab.opr
    neg := hab.neg
    x := hab.x
    v := hab.v
    h := hab.h
    y := by simp only [State.iter, hpair]
    st := hab.st
    mantissa := fun _ _ => by simp only [State.iter, hpair, hcnt, and_self]
    res := fun hdone => by
      by_cases hlast : a.cnt.toNat + 1 = (paramsOf a.opr).f <;> simp [State.iter, hlast] at hdone }

theorem fin (hab : SameOperation a b) (hph : a.ph = .fin) (hopr : a.opr ≠ 0b11#2) :
    SameOperation a.fin b.fin where
  ph := rfl
  opr := hab.opr
  neg := hab.neg
  x := hab.x
  v := hab.v
  h := hab.h
  y := hab.y
  st := hab.st
  mantissa _ _ := hab.mantissa (by simp [hph]) (by simp [hph])
  res _ := by
    rcases opSelect_cases hopr with h | h | h <;>
      simp [State.fin, State.assembled, ← hab.opr, ← hab.neg, ← hab.y, h]

theorem coreStep (hab : SameOperation a b) (hopr : a.opr ≠ 0b11#2) :
    SameOperation a.coreStep b.coreStep := by
  have hph := hab.ph
  cases h : a.ph with
  | idle | done =>
    rwa [State.coreStep_of_rest (by simp [h]), State.coreStep_of_rest (by simp [← hph, h])]
  | scan =>
    rw [State.coreStep_of_scan h, State.coreStep_of_scan (hph ▸ h)]
    exact hab.scan
  | norm =>
    rw [State.coreStep_of_norm h, State.coreStep_of_norm (hph ▸ h)]
    exact hab.norm
  | iter =>
    rw [State.coreStep_of_iter h, State.coreStep_of_iter (hph ▸ h)]
    exact hab.iter h
  | fin =>
    rw [State.coreStep_of_fin h, State.coreStep_of_fin (hph ▸ h)]
    exact hab.fin h hopr

theorem coreSteps (n : Nat) (hab : SameOperation a b) (hopr : a.opr ≠ 0b11#2) :
    SameOperation (State.coreSteps n a) (State.coreSteps n b) := by
  induction n generalizing a b with
  | zero => exact hab
  | succ n ih =>
    obtain ⟨-, -, -, -, -, -, hkeeps, -⟩ := a.coreStep_frame
    exact ih (hab.coreStep hopr) (hkeeps ▸ hopr)

end State.SameOperation

/-- Settles O35: the two runs stay at the same point of the same operation; the reserved command writes
its registers at `ISSUE`. -/
theorem commandsIgnoreOldRegisters : Obligations.CommandsIgnoreOldRegisters := by
  unfold Obligations.CommandsIgnoreOldRegisters
  intro i a b ha hb hrun
  refine ⟨_, _, exec_idle ha, exec_idle hb, ?_⟩
  rw [← hrun]
  by_cases hi : i = .reserved
  · rw [hi, State.coreSteps_of_rest (.inr rfl), State.coreSteps_of_rest (.inr rfl)]
    exact ⟨rfl, rfl, rfl, fun h => absurd rfl h, fun _ => rfl⟩
  · have hsame := (State.SameOperation.issue a b i.opSelect i.magnitude i.sign).coreSteps
      a.edge.coreRun (Instr.opSelect_ne hi)
    rw [State.issued_eq_issue hi, State.issued_eq_issue hi]
    exact ⟨hsame.ph, hsame.opr, hsame.st,
      fun _ => ⟨hsame.neg, hsame.x, hsame.v, hsame.h, hsame.y, hsame.mantissa⟩, hsame.res⟩

end Sys2Proof.Machine
end

section
/-! O33: what an accepted command leaves unchanged (40_sequencer.md R55 to R59). -/

namespace Sys2Proof.Machine

section
variable {α : Type} {P : State → Prop} {f : State → α} {s : State}
  (hstep : ∀ s : State, P s.coreStep → P s ∧ f s.coreStep = f s)
include hstep

/-- If every core step that leads into `P` starts in `P` and keeps `f`, then so does a run of them. -/
theorem State.coreSteps_keep {n : Nat} (hP : P (State.coreSteps n s)) :
    P s ∧ f (State.coreSteps n s) = f s := by
  induction n generalizing s with
  | zero => exact ⟨hP, rfl⟩
  | succ n ih =>
    obtain ⟨hP', hrest⟩ := ih hP
    obtain ⟨hP'', hfirst⟩ := hstep s hP'
    exact ⟨hP'', hrest.trans hfirst⟩

/-- Such a run keeps `f` at every point of it. -/
theorem State.coreSteps_keep_until {n k : Nat} (hP : P (State.coreSteps k s)) (hle : n ≤ k) :
    f (State.coreSteps n s) = f s := by
  rw [← Nat.add_sub_cancel' hle, State.coreSteps_add] at hP
  obtain ⟨hP', -⟩ := State.coreSteps_keep hstep hP
  exact (State.coreSteps_keep hstep hP').2

end

/-- Only `FIN` writes `RES`, and it leads to `DONE` (40_sequencer.md R59). -/
theorem State.coreStep_res {s : State} (h : s.coreStep.ph ≠ .done) :
    s.ph ≠ .done ∧ s.coreStep.res = s.res := by
  rcases s.coreStep_cases with ⟨hph, hs⟩ | ⟨hph, hs⟩ | ⟨hph, hs⟩ | ⟨-, hs⟩ | ⟨-, hs⟩ <;> rw [hs] at h ⊢
  · exact ⟨by simp [hph], rfl⟩
  · exact ⟨by simp [hph], rfl⟩
  · exact ⟨by simp [hph], rfl⟩
  · exact absurd rfl h
  · exact ⟨h, rfl⟩

/-- Only a scan step leads to `SCAN` or `NORM`, and it writes neither `M` nor `CNT`
(40_sequencer.md R56). -/
theorem State.coreStep_mantissa {s : State} (h : s.coreStep.ph = .scan ∨ s.coreStep.ph = .norm) :
    (s.ph = .scan ∨ s.ph = .norm) ∧ (s.coreStep.m, s.coreStep.cnt) = (s.m, s.cnt) := by
  rcases s.coreStep_cases with ⟨hph, hs⟩ | ⟨-, hs⟩ | ⟨-, hs⟩ | ⟨-, hs⟩ | ⟨-, hs⟩ <;> rw [hs] at h ⊢
  · exact ⟨.inl hph, rfl⟩
  · simp [State.norm] at h
  · by_cases hlast : s.cnt.toNat + 1 = (paramsOf s.opr).f <;> simp [State.iter, hlast] at h
  · simp [State.fin] at h
  · exact ⟨h, rfl⟩

section
variable {op : BitVec 2} {mag : BitVec 32} (hop : op ≠ 0b11#2) (hmag : mag.toNat < 2 ^ (paramsOf op).w)
  (s : State) (neg : BitVec 1) {n : Nat}
include hop hmag

/-- An operation leaves `RES` alone before its `FIN` (40_sequencer.md R59, R61). -/
theorem State.coreSteps_issue_res (hn : n ≤ (paramsOf op).s + (1 + (paramsOf op).f)) :
    (State.coreSteps n (s.issue op mag neg)).res = s.res := by
  refine State.coreSteps_keep_until (P := fun t => t.ph ≠ .done) (f := State.res)
    (fun _ => State.coreStep_res) ?_ hn
  rw [State.coreSteps_add, State.coreSteps_issue_scan hop hmag, State.coreSteps_scanned hop hmag]
  exact nofun

/-- An operation leaves `M` and `CNT` alone before its `NORM` (40_sequencer.md R57, R61). -/
theorem State.coreSteps_issue_mantissa (hn : n ≤ (paramsOf op).s) :
    (State.coreSteps n (s.issue op mag neg)).m = s.m ∧
      (State.coreSteps n (s.issue op mag neg)).cnt = s.cnt := by
  refine Prod.mk.inj (State.coreSteps_keep_until (P := fun t => t.ph = .scan ∨ t.ph = .norm)
    (f := fun t => (t.m, t.cnt)) (fun _ => State.coreStep_mantissa) ?_ hn)
  rw [State.coreSteps_issue_scan hop hmag]
  exact .inr rfl

end

/-- `ISSUE` latches the command's operation select and its condition (40_sequencer.md R55). -/
theorem State.issued_latches (s : State) (i : Instr) :
    (s.issued i).opr = i.opSelect ∧ (s.issued i).st = i.condition.code := by
  by_cases hi : i = .reserved
  · rw [hi]
    exact ⟨rfl, rfl⟩
  · rw [State.issued_eq_issue hi, ← Instr.conditionOf_magnitude hi]
    exact ⟨rfl, rfl⟩

/-- Settles O33: `ISSUE` and the core steps have their frames; the reserved command takes no core step, and
the three operations reach `NORM` and `FIN` after the core steps of 40_sequencer.md R61. -/
theorem commandFrame : Obligations.CommandFrame := by
  unfold Obligations.CommandFrame
  intro i s t hidle hexec
  rw [exec_idle hidle] at hexec
  obtain rfl := Host.Outcome.next.inj hexec
  obtain ⟨hhost, hflight, hanswered, hissues, htakes, htick, hopr, hneg, hx, hst⟩ :=
    State.coreSteps_frame s.edge.coreRun (s.issued i)
  obtain ⟨ihost, iflight, ianswered, iissues, itakes, itick⟩ := s.issued_frame i
  obtain ⟨iopr, ist⟩ := s.issued_latches i
  refine ⟨hhost.trans ihost, hflight.trans iflight, hanswered.trans ianswered, hissues.trans iissues,
    htakes.trans itakes, htick.trans itick, hopr.trans iopr, hst.trans ist, ?_, fun hi => ?_⟩
  · rintro rfl
    rw [State.coreSteps_of_rest (.inr rfl)]
    exact ⟨rfl, rfl, rfl, rfl, rfl, rfl, rfl⟩
  · have hop := Instr.opSelect_ne hi
    have hmag := Instr.magnitude_lt hi
    rw [State.issued_eq_issue hi] at hneg hx ⊢
    rw [Instr.coreStepCount_eq hi]
    exact ⟨hneg, hx, fun hn => State.coreSteps_issue_res hop hmag s i.sign (by omega),
      State.coreSteps_issue_mantissa hop hmag s i.sign⟩

end Sys2Proof.Machine
end

section
/-! O42: a response not taken (20_memory.md R34, 70_reset_and_hazards.md R134). -/

namespace Sys2Proof.Machine

/-- In `DONE` an edge with neither `rst` nor `rsp_ready` only passes. -/
theorem step_hold {s : State} (hph : s.ph = .done) (hrst : s.edge.rst = false)
    (hready : s.edge.rspReady = false) : step s = .next s.advance := by
  have haccepts : s.accepts = false := by simp [State.accepts, hph]
  rw [step_otherwise haccepts, State.otherwise, if_neg (by simp [hrst]), if_neg (by simp [hready]),
    State.coreStep_of_rest (.inr hph), State.coreSteps_of_rest (.inr hph)]

/-- Settles O42: no core step is enabled in `DONE`, and the outputs show `PH`, `ST` and `RES`. -/
theorem responseIsHeld : Obligations.ResponseIsHeld := by
  unfold Obligations.ResponseIsHeld
  intro s hph hrst hready
  refine ⟨step_hold hph hrst hready, ?_, ?_, if_pos ⟨hph, hrst⟩, if_pos ⟨hph, hrst⟩⟩
  · simp [State.cmdReady, hrst, hph]
  · simp [State.rspValid, hrst, hph]

end Sys2Proof.Machine
end

section
/-! O48: a placed command word (20_memory.md R38, 40_sequencer.md R61). -/

namespace Sys2Proof

/-- No command takes more than 34 core steps (40_sequencer.md R61). -/
theorem Instr.coreStepCount_le (i : Instr) : i.coreStepCount ≤ 34 := by
  cases i <;> simp [Instr.coreStepCount]

/-- The decoder reads every number of 34 bits (30_encoding.md R48). -/
theorem decodeTableWord_of_lt {w : Nat} (h : w < 2 ^ 34) :
    decodeTableWord 34 w = some (decode (BitVec.ofNat 34 w)) := by
  simp only [decodeTableWord, decodeNumber, Nat.mod_eq_of_lt h, if_pos h]

end Sys2Proof

namespace Sys2Proof.Machine

/-- The step at which an idle block accepts a command with enough core steps to follow leads to `DONE` with
the command's response (40_sequencer.md R61, R64). -/
theorem step_offer_completes {s : State} {c : CmdWord} {n : Nat} {es : List Edge} (hph : s.ph = .idle)
    (hhost : s.host = Edge.offer c n :: es) (hn : (decode c).coreStepCount ≤ n) :
    ∃ t, step s = .next t ∧ t.ph = .done ∧ t.response = (decode c).response ∧ t.host = es := by
  obtain ⟨hdone, hresponse⟩ := State.issued_done_of_le hn s
  obtain ⟨hkeeps, -⟩ := State.coreSteps_frame n (s.issued (decode c))
  obtain ⟨ikeeps, -⟩ := s.issued_frame (decode c)
  refine ⟨_, step_offer hph hhost, hdone, hresponse, ?_⟩
  rw [State.advance_host, State.note_host, hkeeps, ikeeps, hhost, List.tail_cons]

/-- Settles O48: the idle block accepts the word, and 34 core steps lead every command to `DONE`. -/
theorem placedWordRunsNext : Obligations.PlacedWordRunsNext := by
  unfold Obligations.PlacedWordRunsNext
  intro s w hw
  have hplaced : (s.withFetchWord 34 w).host = Edge.offer (BitVec.ofNat 34 w) 34 :: s.host := by
    rw [State.withFetchWord, Nat.mod_eq_of_lt hw]
  obtain ⟨t, hstep, hdone, hresponse, hhost⟩ :=
    step_offer_completes rfl hplaced (Instr.coreStepCount_le _)
  exact ⟨_, t, decodeTableWord_of_lt hw, hstep, hdone, hresponse, hhost⟩

end Sys2Proof.Machine
end

section
/-! O60: the run of a program (30_encoding.md R49, 40_sequencer.md R65). -/

namespace Sys2Proof.Machine

theorem State.ended_iff {s : State} {n : Nat} :
    s.ended n = true ↔ s.issues = n ∧ s.takes = n ∧ s.ph = .idle := by
  simp [State.ended, and_assoc]

/-- A step makes one `ISSUE`, or one `TAKE`, or neither (40_sequencer.md R53). -/
theorem step_counts_le {s t : State} (h : step s = .next t) :
    t.issues + t.takes ≤ s.issues + s.takes + 1 := by
  rcases step_cases h with ⟨-, rfl⟩ | ⟨-, rfl⟩ | ⟨-, -, -, rfl⟩ | ⟨-, -, -, rfl⟩
  · obtain ⟨-, -, -, hissues, htakes, -⟩ := State.coreSteps_frame s.edge.coreRun (s.issued s.offered)
    obtain ⟨-, -, -, iissues, itakes, -⟩ := s.issued_frame s.offered
    simp only [State.advance_issues, State.advance_takes, State.note_issues, State.note_takes, hissues,
      htakes, iissues, itakes]
    omega
  · exact Nat.le_succ _
  · exact le_rfl
  · obtain ⟨-, -, -, hissues, htakes, -⟩ := State.coreSteps_frame s.edge.coreRun s.coreStep
    obtain ⟨-, -, -, cissues, ctakes, -⟩ := s.coreStep_frame
    simp only [State.advance_issues, State.advance_takes, hissues, htakes, cissues, ctakes]
    omega

/-- `n` steps count at most `n` `ISSUE` and `TAKE` steps. -/
theorem runFor_counts_le {n : Nat} {s t : State} (h : runFor n s = .next t) :
    t.issues + t.takes ≤ s.issues + s.takes + n := by
  induction n generalizing s with
  | zero =>
    obtain rfl := Host.Outcome.next.inj h
    exact le_rfl
  | succ n ih =>
    cases hs : step s with
    | next u =>
      rw [runFor_succ hs] at h
      have hrest := ih h
      have hfirst := step_counts_le hs
      omega
    | fault r => nomatch r
    | refused r => simp [runFor, hs] at h

/-- From an idle state, the run over the edges of a program is one exchange for each of its commands. -/
theorem runFor_programEdges {cs : List CmdWord} {s : State} (hph : s.ph = .idle)
    (hhost : s.host = programEdges cs) :
    ∃ t, runFor (2 * cs.length) s = .next t ∧ t.ph = .idle ∧ t.issues = s.issues + cs.length ∧
      t.takes = s.takes + cs.length ∧
      t.responses = s.responses ++ cs.map fun c => (decode c).response := by
  induction cs generalizing s with
  | nil => exact ⟨s, rfl, hph, rfl, rfl, by simp⟩
  | cons c cs ih =>
    obtain ⟨t, u, hissue, htake, huph, -, huhost, hanswered, hissues, htakes⟩ :=
      exchangeAnswersTheCommand s c 34 (programEdges cs) hph hhost (Instr.coreStepCount_le _)
    obtain ⟨v, hrun, hvph, hvissues, hvtakes, hvresponses⟩ := ih huph huhost
    refine ⟨v, ?_, hvph, ?_, ?_, ?_⟩
    · rw [List.length_cons, Nat.mul_succ, runFor_succ hissue, runFor_succ htake, hrun]
    · rw [hvissues, hissues, List.length_cons, Nat.add_right_comm, Nat.add_assoc]
    · rw [hvtakes, htakes, List.length_cons, Nat.add_right_comm, Nat.add_assoc]
    · rw [hvresponses]
      simp [State.responses, hanswered]

/-- Settles O60: a program of `n` commands ends with `2n` `ISSUE` and `TAKE` steps, more than fewer steps
can count, and `2n` steps make its `n` exchanges. -/
theorem programEndsWithItsResponses : Obligations.ProgramEndsWithItsResponses := by
  unfold Obligations.ProgramEndsWithItsResponses
  intro s cs
  refine ⟨fun hbusy => if_neg hbusy, fun hidle =>
    ⟨_, withProgram_eq_some.mpr ⟨hidle, rfl⟩, fun k u hk hrun => ?_, ?_⟩⟩
  · have hcounts : u.issues + u.takes ≤ 0 + 0 + k := runFor_counts_le hrun
    refine Bool.eq_false_iff.mpr fun hended => ?_
    obtain ⟨hissues, htakes, -⟩ := State.ended_iff.mp hended
    omega
  · obtain ⟨t, hrun, htph, hissues, htakes, hresponses⟩ := runFor_programEdges (cs := cs)
      (s := { s with host := programEdges cs, inFlight := none, answered := [], issues := 0, takes := 0 })
      hidle rfl
    have hended := State.ended_iff.mpr
      ⟨hissues.trans (Nat.zero_add _), htakes.trans (Nat.zero_add _), htph⟩
    exact ⟨t, hrun, hended, htph, hresponses⟩

end Sys2Proof.Machine
end

section
/-! The two halves of an extended number (30_encoding.md R44, R49). -/

namespace Sys2Proof

theorem extractLsb'_setWidth_low (u : BitVec 16) : (u.setWidth 32).extractLsb' 0 16 = u := by
  rw [BitVec.extractLsb'_setWidth_of_le (by decide), BitVec.extractLsb'_eq_self]

theorem extractLsb'_setWidth_high (u : BitVec 16) : (u.setWidth 32).extractLsb' 16 16 = 0#16 := by
  rw [BitVec.setWidth_eq_append (by decide)]
  exact BitVec.extractLsb'_append_eq_left

theorem extractLsb'_signExtend_low (r : BitVec 16) : (r.signExtend 32).extractLsb' 0 16 = r := by
  rw [BitVec.signExtend_eq_append_of_le (by decide)]
  exact BitVec.extractLsb'_append_eq_right

end Sys2Proof
end

section
/-! O1, O2 and O3: the decoder against the encoder, and the words it does not tell apart (30_encoding.md R40
to R42, R51). -/

namespace Sys2Proof

theorem decode_encode (i : Instr) : decode (encode i) = i := by
  cases i with
  | log2U16 u =>
    rw [decode_u16 (Laws.OpField.log2U16 u), encode, cmdX_makeCmd, Instr.operandField,
      extractLsb'_setWidth_low]
  | log2U32 u => rw [decode_u32 (Laws.OpField.log2U32 u), encode, cmdX_makeCmd, Instr.operandField]
  | log2I32 v => rw [decode_i32 (Laws.OpField.log2I32 v), encode, cmdX_makeCmd, Instr.operandField]
  | reserved => exact decode_reserved Laws.OpField.reserved

/-- Settles O1: each row's operation select leads the decoder to that row, and its operand field holds the
operand. -/
theorem decodeEncodeAgree : Obligations.DecodeEncodeAgree := by
  unfold Obligations.DecodeEncodeAgree
  intro i _
  exact decode_encode i

theorem cmdOp_cases (c : CmdWord) :
    cmdOp c = 0b00#2 ∨ cmdOp c = 0b01#2 ∨ cmdOp c = 0b10#2 ∨ cmdOp c = 0b11#2 := by
  by_cases h : cmdOp c = 0b11#2
  · simp [h]
  · simpa [h] using Machine.opSelect_cases h

/-- Decoding keeps the operation select (30_encoding.md R41). -/
theorem opSelect_decode (c : CmdWord) : (decode c).opSelect = cmdOp c := by
  obtain h | h | h | h := cmdOp_cases c
  · rw [decode_u16 h, h]; rfl
  · rw [decode_u32 h, h]; rfl
  · rw [decode_i32 h, h]; rfl
  · rw [decode_reserved h, h]; rfl

theorem cmdWord_eq_iff {a b : CmdWord} : a = b ↔ cmdOp a = cmdOp b ∧ cmdX a = cmdX b := by
  refine ⟨fun h => by simp [h], fun ⟨hop, hx⟩ => ?_⟩
  rw [← makeCmd_fields a, hop, hx, makeCmd_fields]

/-- Two words with one operation select decode alike exactly when the operand they hand on is the same. -/
theorem decode_eq_iff_of_op {a b : CmdWord} (hop : cmdOp a = cmdOp b) :
    decode a = decode b ↔ cmdX a = cmdX b ∨
      (cmdOp b = 0b00#2 ∧ (cmdX a).extractLsb' 0 16 = (cmdX b).extractLsb' 0 16) ∨
      cmdOp b = 0b11#2 := by
  obtain h | h | h | h := cmdOp_cases b
  · rw [decode_u16 (hop.trans h), decode_u16 h, Instr.log2U16.injEq, h]
    simp +contextual
  · rw [decode_u32 (hop.trans h), decode_u32 h, Instr.log2U32.injEq, h]
    simp
  · rw [decode_i32 (hop.trans h), decode_i32 h, Instr.log2I32.injEq, h]
    simp
  · simp [decode_reserved (hop.trans h), decode_reserved h, h]

theorem decode_eq_iff (a b : CmdWord) : decode a = decode b ↔
    a = b ∨
    (cmdOp a = 0b00#2 ∧ cmdOp b = 0b00#2 ∧ (cmdX a).extractLsb' 0 16 = (cmdX b).extractLsb' 0 16) ∨
    (cmdOp a = 0b11#2 ∧ cmdOp b = 0b11#2) := by
  by_cases hop : cmdOp a = cmdOp b
  · simp [decode_eq_iff_of_op hop, cmdWord_eq_iff, hop]
  · have hne : decode a ≠ decode b := fun h => hop (by rw [← opSelect_decode, h, opSelect_decode])
    have hword : a ≠ b := fun h => hop (h ▸ rfl)
    simp only [hne, hword, false_or, false_iff, not_or]
    exact ⟨fun ⟨ha, hb, _⟩ => hop (ha.trans hb.symm), fun ⟨ha, hb⟩ => hop (ha.trans hb.symm)⟩

/-- Settles O2: the decoder keeps the operation select, so words it does not tell apart have the same one,
and then only what their row ignores may differ. -/
theorem decoderReadsOpAndOperand : Obligations.DecoderReadsOpAndOperand := by
  unfold Obligations.DecoderReadsOpAndOperand
  exact ⟨fun _ => decode_u16, fun _ => decode_u32, fun _ => decode_i32, fun _ => decode_reserved,
    decode_eq_iff⟩

/-- Settles O3: closed command words, evaluated. -/
theorem listedWordsDecode : Obligations.ListedWordsDecode := by
  unfold Obligations.ListedWordsDecode
  decide

end Sys2Proof
end

section
/-! O4 and O5: the assembler (30_encoding.md R49, R50). -/

namespace Sys2Proof.Machine

theorem assemble_of_wellFormed {m : Mnemonic} {n : Int} (hlo : m.range.1 ≤ n) (hhi : n ≤ m.range.2) :
    assemble (.op m n) = .ok (makeCmd (mnemonicSelect m) (BitVec.ofInt 32 n)) := by
  simp [assemble, SourceLine.wellFormed, hlo, hhi]

theorem assemble_of_not_wellFormed {l : SourceLine} (h : l.wellFormed = false) :
    assemble l = .error .outOfRange := by
  simp [assemble, h]

/-- The 32-bit field holds a non-negative literal unchanged (30_encoding.md R49). -/
theorem toNat_ofInt_literal {n : Int} (hlo : 0 ≤ n) (hhi : n ≤ 4294967295) :
    ((BitVec.ofInt 32 n).toNat : Int) = n := by
  rw [BitVec.toNat_ofInt]
  omega

/-- A 16-bit literal stands in `x[15:0]`, and `x[31:16]` is 0 (30_encoding.md R49). -/
theorem halves_ofInt_literal {n : Int} (hlo : 0 ≤ n) (hhi : n ≤ 65535) :
    (((BitVec.ofInt 32 n).extractLsb' 0 16).toNat : Int) = n ∧
      (BitVec.ofInt 32 n).extractLsb' 16 16 = 0#16 := by
  have hfield := toNat_ofInt_literal hlo (by omega)
  rw [← BitVec.toNat_inj, BitVec.extractLsb'_toNat, BitVec.extractLsb'_toNat, BitVec.toNat_ofNat]
  constructor <;> omega

/-- Settles O4: in range, the 32 bits of the literal hold it, and the decoder hands them on. -/
theorem assembledLiteralsDecode : Obligations.AssembledLiteralsDecode := by
  unfold Obligations.AssembledLiteralsDecode
  refine ⟨fun n hlo hhi => ?_, fun n hlo hhi => ?_, fun n hlo hhi => ?_,
    fun _ => assemble_of_not_wellFormed⟩
  · obtain ⟨hlow, hhigh⟩ := halves_ofInt_literal hlo hhi
    refine ⟨_, _, assemble_of_wellFormed hlo hhi, decode_u16 (cmdOp_makeCmd _ _), ?_, ?_⟩
    · rwa [cmdX_makeCmd]
    · rwa [cmdX_makeCmd]
  · refine ⟨_, _, assemble_of_wellFormed hlo hhi, decode_u32 (cmdOp_makeCmd _ _), ?_⟩
    rw [cmdX_makeCmd]
    exact toNat_ofInt_literal hlo hhi
  · refine ⟨_, _, assemble_of_wellFormed hlo hhi, decode_i32 (cmdOp_makeCmd _ _), ?_⟩
    rw [cmdX_makeCmd]
    exact BitVec.toInt_ofInt_eq_self (by decide) (by omega) (by omega)

/-- Settles O5: closed lines of text, evaluated. -/
theorem listedLinesAssemble : Obligations.ListedLinesAssemble := by
  unfold Obligations.ListedLinesAssemble
  decide

end Sys2Proof.Machine
end

section
/-! O26: the result field (30_encoding.md R44). -/

namespace Sys2Proof.Machine

/-- Settles O26: zero extension keeps the unsigned value, sign extension the signed one. -/
theorem resultFieldKeepsTheValue : Obligations.ResultFieldKeepsTheValue := by
  unfold Obligations.ResultFieldKeepsTheValue
  refine ⟨fun u => ⟨?_, ?_, ?_⟩, fun _ => rfl, fun v => ⟨?_, fun k hlo hhi => ?_, ?_⟩, rfl⟩
  · exact BitVec.toNat_setWidth_of_le (by decide)
  · exact extractLsb'_setWidth_high _
  · exact extractLsb'_setWidth_low _
  · exact BitVec.toInt_signExtend_of_le (by decide)
  · rw [Instr.result, BitVec.getLsbD_signExtend]
    simp [hhi, Nat.not_lt.mpr hlo, BitVec.msb_eq_getLsbD_last]
  · exact extractLsb'_signExtend_low _

end Sys2Proof.Machine
end

section
/-! O44 and O47: the outputs, and the step at an edge that accepts a command (30_encoding.md R51, R52,
40_sequencer.md R53). -/

namespace Sys2Proof.Machine

/-- Settles O44: with `rst = 0` no output is a free value while it is meaningful. -/
theorem outputsFollowThePhase : Obligations.OutputsFollowThePhase := by
  unfold Obligations.OutputsFollowThePhase
  intro s hrst
  have hvalid : s.rspValid = true ↔ s.ph = .done := by simp [State.rspValid, hrst]
  refine ⟨by simp [State.cmdReady, hrst], hvalid, fun h => ?_⟩
  have hshown : s.ph = .done ∧ s.edge.rst = false := ⟨hvalid.mp h, hrst⟩
  rw [State.rspStatus, State.rspResult, if_pos hshown, if_pos hshown, State.response]

/-- Settles O47: at such an edge the step is `exec` of the decoded word, noted by the host. -/
theorem stepRunsTheOfferedCommand : Obligations.StepRunsTheOfferedCommand := by
  unfold Obligations.StepRunsTheOfferedCommand
  intro s hrst hidle hvalid t hexec
  rw [step, if_pos (State.accepts_iff.mpr ⟨hrst, hidle, hvalid⟩), State.offered, hexec]
  rfl

end Sys2Proof.Machine
end

section
/-! O55: the status of a command (30_encoding.md R47, 60_exceptions.md R112 to R116). -/

namespace Sys2Proof.Machine

@[simp] theorem rspStatusField_makeRsp (status : BitVec 2) (result : BitVec 32) :
    rspStatusField (makeRsp status result) = status :=
  cmdOp_makeCmd status result

/-- Code 3 is never produced (60_exceptions.md R114). -/
theorem Condition.code_ne_three (c : Condition) : c.code ≠ 3#2 := by
  cases c <;> decide

theorem Condition.code_eq_one_iff (c : Condition) : c.code = 1#2 ↔ c = .zeroInput := by
  cases c <;> decide

theorem Condition.code_eq_two_iff (c : Condition) : c.code = 2#2 ↔ c = .illegalOp := by
  cases c <;> decide

theorem conditionOf_eq_zeroInput_iff (mag : BitVec 32) : conditionOf mag = .zeroInput ↔ mag = 0#32 := by
  simp [conditionOf]

theorem conditionOf_ne_illegalOp (mag : BitVec 32) : conditionOf mag ≠ .illegalOp := by
  rw [conditionOf]
  split <;> simp

end Sys2Proof.Machine

namespace Sys2Proof

open Machine

theorem Instr.opSelect_eq_three_iff (i : Instr) : i.opSelect = 0b11#2 ↔ i = .reserved :=
  ⟨fun h => by_contra fun hi => Instr.opSelect_ne hi h, fun h => h ▸ rfl⟩

/-- `ILLEGAL_OP` is the condition of the reserved command alone (60_exceptions.md R113). -/
theorem Instr.condition_eq_illegalOp_iff (i : Instr) : i.condition = .illegalOp ↔ i = .reserved := by
  refine ⟨fun h => by_contra fun hi => ?_, fun h => h ▸ rfl⟩
  exact conditionOf_ne_illegalOp i.magnitude ((Instr.conditionOf_magnitude hi).trans h)

end Sys2Proof

namespace Sys2Proof.Machine

/-- A block that tracks its command holds in `OPR`, `ST` and `X` what the command latched: the core writes
none of them (40_sequencer.md R55). -/
theorem State.Tracks.latches {s : State} (ht : s.Tracks) (hph : s.ph ≠ .idle) :
    ∃ i : Instr, s.opr = i.opSelect ∧ s.st = i.condition.code ∧ (i ≠ .reserved → s.x = i.magnitude) := by
  obtain ⟨-, hbusy, -⟩ := ht
  obtain ⟨c, -, start, n, hregs⟩ := hbusy hph
  obtain ⟨-, -, -, -, -, -, hopr, -, hx, hst⟩ := State.coreSteps_frame n (start.issued (decode c))
  obtain ⟨iopr, ist⟩ := start.issued_latches (decode c)
  rw [State.eq_withHostOf hregs]
  refine ⟨decode c, hopr.trans iopr, hst.trans ist, fun hi => hx.trans ?_⟩
  rw [State.issued_eq_issue hi]
  rfl

/-- Settles O55: `ST` is the code of the condition of the command in flight, and a recorded status that of
the command it answers. -/
theorem statusNamesOneCondition : Obligations.StatusNamesOneCondition := by
  unfold Obligations.StatusNamesOneCondition
  refine ⟨fun s ht hph => ?_, fun s ⟨_, _, hrecord⟩ e he => ?_⟩
  · obtain ⟨i, hopr, hst, hx⟩ := ht.latches hph
    rw [hopr, hst]
    refine ⟨i.condition.code_ne_three, ?_, fun hop => ?_⟩
    · rw [Condition.code_eq_two_iff, Instr.condition_eq_illegalOp_iff, Instr.opSelect_eq_three_iff]
    · have hi : i ≠ .reserved := fun h => hop (i.opSelect_eq_three_iff.mpr h)
      rw [hx hi, Condition.code_eq_one_iff, ← Instr.conditionOf_magnitude hi, conditionOf_eq_zeroInput_iff]
  · rw [hrecord e he, Instr.response, rspStatusField_makeRsp]
    exact Condition.code_ne_three _

end Sys2Proof.Machine
end

section
/-! The step at each kind of edge, and what one step does to the host's record and counts
(40_sequencer.md R53, R65). -/

namespace Sys2Proof.Machine

/-- A busy block accepts no command (40_sequencer.md R62). -/
theorem State.accepts_of_busy {s : State} (hbusy : s.ph ≠ .idle) : s.accepts = false := by
  simp [State.accepts, hbusy]

/-- An edge with no `RESET`, `ISSUE` or `TAKE` leaves the step to the core. -/
theorem step_core {s : State} (hrst : s.edge.rst = false) (haccepts : s.accepts = false)
    (htake : ¬(s.ph = .done ∧ s.edge.rspReady = true)) :
    step s = .next (State.coreSteps s.edge.coreRun s.coreStep).advance := by
  rw [step_otherwise haccepts, State.otherwise, if_neg (by simp [hrst]), if_neg htake]

/-- In the core phases the core never waits (40_sequencer.md R62). -/
theorem step_core_phase {s : State} (hidle : s.ph ≠ .idle) (hdone : s.ph ≠ .done)
    (hrst : s.edge.rst = false) :
    step s = .next (State.coreSteps s.edge.coreRun s.coreStep).advance :=
  step_core hrst (State.accepts_of_busy hidle) fun h => hdone h.1

/-- With no further core step before the host's next edge, it makes exactly one. -/
theorem step_core_phase_fine {s : State} (hidle : s.ph ≠ .idle) (hdone : s.ph ≠ .done)
    (hrst : s.edge.rst = false) (hrun : s.edge.coreRun = 0) : step s = .next s.coreStep.advance := by
  rw [step_core_phase hidle hdone hrst, hrun, State.coreSteps_zero]

/-- `RESET` comes before everything else (70_reset_and_hazards.md R127). -/
theorem step_resets {s : State} (hrst : s.edge.rst = true) : step s = .next s.resetStep.advance := by
  rw [step_otherwise (by simp [State.accepts, hrst]), State.otherwise, if_pos hrst]

/-- In `DONE`, `rsp_ready` takes the response (40_sequencer.md R60). -/
theorem step_takes {s : State} (hph : s.ph = .done) (hrst : s.edge.rst = false)
    (hready : s.edge.rspReady = true) : step s = .next s.take.advance := by
  rw [step_otherwise (State.accepts_of_busy (by simp [hph])), State.otherwise, if_neg (by simp [hrst]),
    if_pos ⟨hph, hready⟩]

/-- The host's memory of what it sent and got back (40_sequencer.md R65): the command in flight, the
exchanges completed, and the counts of `ISSUE` and `TAKE` steps. -/
def State.bookkeeping (s : State) : Option CmdWord × List Exchange × Nat × Nat :=
  (s.inFlight, s.answered, s.issues, s.takes)

theorem State.bookkeeping_eq_iff {t : State} {flight : Option CmdWord} {answered : List Exchange}
    {issues takes : Nat} : t.bookkeeping = (flight, answered, issues, takes) ↔
      t.inFlight = flight ∧ t.answered = answered ∧ t.issues = issues ∧ t.takes = takes := by
  simp [State.bookkeeping]

/-- The core writes nothing of it. -/
theorem State.coreSteps_bookkeeping (n : Nat) (s : State) :
    (State.coreSteps n s).bookkeeping = s.bookkeeping := by
  obtain ⟨-, hflight, hanswered, hissues, htakes, -⟩ := State.coreSteps_frame n s
  exact State.bookkeeping_eq_iff.mpr ⟨hflight, hanswered, hissues, htakes⟩

/-- `ISSUE` itself writes nothing of it; the host's note of it does. -/
theorem State.issued_bookkeeping (s : State) (i : Instr) :
    (s.issued i).bookkeeping = s.bookkeeping := by
  cases i <;> rfl

theorem State.note_advance_bookkeeping {s t : State} (c : CmdWord) (h : t.bookkeeping = s.bookkeeping) :
    (t.note c).advance.bookkeeping = (some c, s.answered, s.issues + 1, s.takes) := by
  obtain ⟨-, hanswered, hissues, htakes⟩ := State.bookkeeping_eq_iff.mp h
  simp [State.bookkeeping, hanswered, hissues, htakes]

/-- What a step does to the host's memory: it notes a command accepted, drops it at a `RESET`, records the
response taken, or changes nothing. -/
theorem step_bookkeeping {s t : State} (h : step s = .next t) :
    (s.accepts = true ∧ t.bookkeeping = (some s.edge.cmd, s.answered, s.issues + 1, s.takes)) ∨
    (s.edge.rst = true ∧ t.bookkeeping = (none, s.answered, s.issues, s.takes)) ∨
    (s.edge.rst = false ∧ s.ph = .done ∧ s.edge.rspReady = true ∧
      t.bookkeeping = (none, s.recorded, s.issues, s.takes + 1)) ∨
    (s.accepts = false ∧ ¬(s.ph = .done ∧ s.edge.rspReady = true) ∧ t.bookkeeping = s.bookkeeping) := by
  rcases step_cases h with ⟨haccepts, rfl⟩ | ⟨hrst, rfl⟩ | ⟨hrst, hph, hready, rfl⟩ |
    ⟨-, haccepts, htake, rfl⟩
  · exact .inl ⟨haccepts, State.note_advance_bookkeeping _
      ((State.coreSteps_bookkeeping _ _).trans (s.issued_bookkeeping _))⟩
  · exact .inr (.inl ⟨hrst, rfl⟩)
  · exact .inr (.inr (.inl ⟨hrst, hph, hready, rfl⟩))
  · exact .inr (.inr (.inr ⟨haccepts, htake, State.coreSteps_bookkeeping (s.edge.coreRun + 1) s⟩))

end Sys2Proof.Machine
end

section
/-! O57 and O58: the host's counts (40_sequencer.md R65). -/

namespace Sys2Proof.Machine

/-- Settles O57: `ISSUE` is counted where a command is accepted, `TAKE` where a response is taken, and an
edge makes at most one of the two, since it finds one phase. -/
theorem stepCountsIssuesAndTakes : Obligations.StepCountsIssuesAndTakes := by
  unfold Obligations.StepCountsIssuesAndTakes
  intro s t hstep
  simp only [← State.accepts_iff]
  rcases step_bookkeeping hstep with ⟨haccepts, hbook⟩ | ⟨hrst, hbook⟩ | ⟨hrst, hph, hready, hbook⟩ |
      ⟨haccepts, htake, hbook⟩ <;>
    obtain ⟨-, -, hissues, htakes⟩ := State.bookkeeping_eq_iff.mp hbook <;>
    rw [hissues, htakes]
  · obtain ⟨-, hidle, -⟩ := State.accepts_iff.mp haccepts
    simp [haccepts, hidle]
  · simp [State.accepts, hrst]
  · simp [State.accepts, hrst, hph, hready]
  · exact ⟨by simp [haccepts], by rw [if_neg fun h => htake h.2]⟩

/-- Settles O58: a command is accepted only with nothing in flight, and in `DONE` there is one whose
response `TAKE` records. -/
theorem stepKeepsCounted : Obligations.StepKeepsCounted := by
  unfold Obligations.StepKeepsCounted
  intro s t htracks ⟨htaken, hissued⟩ hstep
  rcases step_bookkeeping hstep with ⟨haccepts, hbook⟩ | ⟨-, hbook⟩ | ⟨-, hph, -, hbook⟩ |
      ⟨-, -, hbook⟩ <;>
    obtain ⟨hflight, hanswered, hissues, htakes⟩ := State.bookkeeping_eq_iff.mp hbook <;>
    rw [State.Counted, hflight, hanswered, hissues, htakes]
  · obtain ⟨-, hidle, -⟩ := State.accepts_iff.mp haccepts
    rw [htracks.1 hidle] at hissued
    exact ⟨htaken, Nat.succ_le_succ hissued⟩
  · exact ⟨htaken, (Nat.le_add_right _ _).trans hissued⟩
  · obtain ⟨c, hc, -⟩ := htracks.response_of_done hph
    rw [hc] at hissued
    rw [State.recorded_of_inFlight hc, List.length_append, htaken]
    exact ⟨rfl, htaken ▸ hissued⟩
  · exact ⟨htaken, hissued⟩

end Sys2Proof.Machine
end

section
/-! O45 and O46: what has no effect on a step, and coarse against fine steps (40_sequencer.md R62, R64). -/

namespace Sys2Proof.Machine

/-- `s` with the host's coming edges replaced: `e` the next one, `es` after it. -/
def State.atEdge (s : State) (e : Edge) (es : List Edge) : State := { s with host := e :: es }

/-- `s` after an edge of the host, with the edges `es` left to come. -/
def State.passed (s : State) (es : List Edge) : State := { s with host := es, tick := s.tick + 1 }

section
variable (s : State) (e : Edge) (es : List Edge)

/-- The core and `ISSUE` do not read the host's coming edges. -/
theorem State.coreStep_atEdge : (s.atEdge e es).coreStep = s.coreStep.atEdge e es := by
  cases h : s.ph <;> simp only [State.coreStep, h, State.atEdge] <;> rfl

theorem State.coreSteps_atEdge (n : Nat) :
    State.coreSteps n (s.atEdge e es) = (State.coreSteps n s).atEdge e es := by
  induction n generalizing s with
  | zero => rfl
  | succ n ih => rw [State.coreSteps_succ, State.coreStep_atEdge, ih, State.coreSteps_succ]

theorem State.issued_atEdge (i : Instr) : (s.atEdge e es).issued i = (s.issued i).atEdge e es := by
  cases i <;> rfl

end

/-- At an edge with no `RESET`, `ISSUE` or `TAKE` the core makes its step and those up to the next edge. -/
theorem step_atEdge_core {s : State} {e : Edge} {es : List Edge} (hrst : e.rst = false)
    (hcmd : ¬(s.ph = .idle ∧ e.cmdValid = true)) (htake : ¬(s.ph = .done ∧ e.rspReady = true)) :
    step (s.atEdge e es) = .next ((State.coreSteps (e.coreRun + 1) s).passed es) := by
  have haccepts : (s.atEdge e es).accepts = false :=
    Bool.eq_false_iff.mpr fun h => hcmd (State.accepts_iff.mp h).2
  rw [step_core (s := s.atEdge e es) hrst haccepts htake, ← State.coreSteps_succ, State.coreSteps_atEdge]
  rfl

/-- A step at the edge `e`, as a function of the edge and of the state without its coming edges. -/
theorem step_atEdge (s : State) (e : Edge) (es : List Edge) :
    step (s.atEdge e es) = .next (
      if e.rst = true then s.resetStep.passed es
      else if s.ph = .idle ∧ e.cmdValid = true then
        ((State.coreSteps e.coreRun (s.issued (decode e.cmd))).note e.cmd).passed es
      else if s.ph = .done ∧ e.rspReady = true then s.take.passed es
      else (State.coreSteps (e.coreRun + 1) s).passed es) := by
  cases hrst : e.rst with
  | true => exact step_resets (s := s.atEdge e es) hrst
  | false =>
    rw [if_neg (by simp)]
    split_ifs with hcmd htake
    · rw [step_accepts (State.accepts_iff (s := s.atEdge e es) |>.mpr ⟨hrst, hcmd⟩),
        State.issued_atEdge, State.coreSteps_atEdge]
      rfl
    · exact step_takes (s := s.atEdge e es) htake.1 hrst htake.2
    · exact step_atEdge_core hrst hcmd htake

/-- What a step reads of the host's next edge: `rst` and the number of core steps always, the command
signals in `IDLE` only, `rsp_ready` in `DONE` only. -/
theorem step_edge_congr {s : State} {e f : Edge} {es : List Edge} (hrst : e.rst = f.rst)
    (hrun : e.coreRun = f.coreRun) (hcmd : s.ph = .idle → e.cmdValid = f.cmdValid ∧ e.cmd = f.cmd)
    (hready : s.ph = .done → e.rspReady = f.rspReady) :
    step (s.atEdge e es) = step (s.atEdge f es) := by
  rw [step_atEdge, step_atEdge, hrst, hrun]
  cases hph : s.ph with
  | idle =>
    obtain ⟨hvalid, hword⟩ := hcmd hph
    simp [hvalid, hword]
  | done => simp [hready hph]
  | scan | norm | iter | fin => simp

/-- Settles O45: a step does not read the signals its phase has no use for, and in the core phases nothing
but the core is enabled. -/
theorem nothingElseStepsTheBlock : Obligations.NothingElseStepsTheBlock := by
  unfold Obligations.NothingElseStepsTheBlock
  refine ⟨fun s e f es hbusy hrst hready hrun => ?_, fun i s => exec_busy,
    fun s e f es hdone hrst hvalid hop hx hrun => ?_, fun s hidle hrst hvalid => ?_,
    fun s => step_core_phase⟩
  · exact step_edge_congr hrst hrun (fun h => absurd h hbusy) fun _ => hready
  · have hword : e.cmd = f.cmd := by rw [Edge.cmd, Edge.cmd, hop, hx]
    exact step_edge_congr hrst hrun (fun _ => ⟨hvalid, hword⟩) fun h => absurd h hdone
  · rw [step_core hrst (by simp [State.accepts, hvalid]) (by simp [hidle]),
      State.coreStep_of_rest (.inl hidle), State.coreSteps_of_rest (.inl hidle)]

/-- Settles O46: both ways make `n + 2` core steps in all; the second passes one edge more, which only
`tick` shows, and no register depends on it. -/
theorem coarseStepIsFineSteps : Obligations.CoarseStepIsFineSteps := by
  unfold Obligations.CoarseStepIsFineSteps
  intro s e es n hidle hdone hrst
  have hcmd {f : Edge} : ¬(s.ph = .idle ∧ f.cmdValid = true) := fun h => hidle h.1
  have htake {f : Edge} : ¬(s.ph = .done ∧ f.rspReady = true) := fun h => hdone h.1
  have hbook : (State.coreSteps (n + 1) { s.coreStep with tick := s.coreStep.tick + 1 }).bookkeeping =
      (State.coreSteps (n + 1) s.coreStep).bookkeeping :=
    (State.coreSteps_bookkeeping (n + 1) _).trans (State.coreSteps_bookkeeping (n + 1) s.coreStep).symm
  obtain ⟨-, hanswered, hissues, htakes⟩ := State.bookkeeping_eq_iff.mp hbook
  exact ⟨_, _, _, step_atEdge_core hrst hcmd htake, step_atEdge_core (s := s) hrst hcmd htake,
    step_atEdge_core (s := { s.coreStep with tick := s.coreStep.tick + 1 }) rfl nofun nofun,
    State.coreSteps_regs_congr (n + 1) rfl, rfl, hanswered, hissues, htakes⟩

end Sys2Proof.Machine
end

section
/-! O37 to O41: the steps of the core and `TAKE`, on the registers as bit vectors (40_sequencer.md R56 to
R60). -/

namespace Sys2Proof.Machine

/-- The tested field of `V` as a bit vector (41_hsb_detector.md R68). -/
theorem scanHit_toNat (v : BitVec 32) (h : Nat) :
    scanHit h v.toNat = true ↔ v.extractLsb' h h ≠ 0 := by
  rw [scanHit, decide_eq_true_iff, Ne, Ne, ← BitVec.toNat_inj, BitVec.extractLsb'_toNat]
  rfl

/-- `V` and `Y` after `SCAN`, as bit vectors. -/
theorem scanStep_ofNat (v y : BitVec 32) (h : BitVec 5) :
    BitVec.ofNat 32 (scanStep h.toNat (v.toNat, y.toNat)).1 =
        (if v.extractLsb' h.toNat h.toNat ≠ 0 then v >>> h.toNat else v) ∧
      BitVec.ofNat 32 (scanStep h.toNat (v.toNat, y.toNat)).2 =
        (if v.extractLsb' h.toNat h.toNat ≠ 0 then y + h.setWidth 32 else y) := by
  cases hit : scanHit h.toNat v.toNat with
  | true =>
    have hne := (scanHit_toNat v h.toNat).mp hit
    rw [scanStep_hit hit, if_pos hne, if_pos hne]
    constructor
    · rw [← BitVec.toNat_ushiftRight, BitVec.ofNat_toNat, BitVec.setWidth_eq]
    · rw [BitVec.ofNat_add, BitVec.ofNat_toNat, BitVec.ofNat_toNat, BitVec.setWidth_eq]
  | false =>
    have miss : ¬ v.extractLsb' h.toNat h.toNat ≠ 0 := fun hne => by
      simp [(scanHit_toNat v _).mpr hne] at hit
    rw [scanStep_miss hit, if_neg miss, if_neg miss, BitVec.ofNat_toNat, BitVec.ofNat_toNat,
      BitVec.setWidth_eq, BitVec.setWidth_eq]
    exact ⟨rfl, rfl⟩

/-- Settles O37: the scan step of the datapath on the two registers; `H` is halved by a shift. -/
theorem scanStepOfTheBlock : Obligations.ScanStepOfTheBlock := by
  unfold Obligations.ScanStepOfTheBlock
  intro s hph hrst hrun
  obtain ⟨hv, hy⟩ := scanStep_ofNat s.v s.y s.h
  have hh : BitVec.ofNat 5 (s.h.toNat / 2) = s.h >>> 1 := by
    rw [← BitVec.toNat_inj, BitVec.toNat_ushiftRight, Nat.shiftRight_one]
    exact toNat_ofNat_of_lt (by omega)
  rw [step_core_phase_fine (by simp [hph]) (by simp [hph]) hrst hrun, State.coreStep_of_scan hph,
    State.scan, hv, hy, hh]
  rfl

/-- Settles O38: the 64-bit shift of `X` is the normaliser, modulo the width of `M`. -/
theorem normStepOfTheBlock : Obligations.NormStepOfTheBlock := by
  unfold Obligations.NormStepOfTheBlock
  intro s hph hrst hrun hy
  have hm : s.normalised = s.x.setWidth 64 <<< ((paramsOf s.opr).w - 1 - s.y.toNat) := by
    rw [State.normalised, if_pos hy, normalise, ← BitVec.toNat_inj, BitVec.toNat_shiftLeft,
      BitVec.toNat_setWidth_of_le (by decide), BitVec.toNat_ofNat]
  rw [step_core_phase_fine (by simp [hph]) (by simp [hph]) hrst hrun, State.coreStep_of_norm hph,
    State.norm, hm]
  rfl

/-- The accumulator shifter on the 32 bits of `Y` (42_mantissa_recurrence.md R82). -/
theorem insertBit_ofNat (y : BitVec 32) (b : Bool) :
    BitVec.ofNat 32 (insertBit y.toNat b) = (y <<< 1) ||| (BitVec.ofBool b).setWidth 32 := by
  have hshift : BitVec.ofNat 32 (y.toNat <<< 1) = y <<< 1 := by
    rw [← BitVec.toNat_inj, BitVec.toNat_ofNat, BitVec.toNat_shiftLeft]
  have hbit : BitVec.ofNat 32 b.toNat = (BitVec.ofBool b).setWidth 32 := by
    cases b <;> rfl
  rw [insertBit, BitVec.ofNat_or, hshift, hbit]

/-- The pair (`M`, `Y`) after `ITER`, from the product-plus-offset `p` (42_mantissa_recurrence.md R79 to
R82). -/
theorem State.iterated_eq_of_product {s : State} {p : Nat}
    (hp : p = (s.m.toNat % 2 ^ (paramsOf s.opr).w) ^ 2 + 2 ^ ((paramsOf s.opr).w - 2)) :
    s.iterated = (renormalise (paramsOf s.opr).w p,
      insertBit s.y.toNat (overflowBit (paramsOf s.opr).w p)) := by
  rw [hp, Nat.pow_two]
  rfl

/-- Settles O39: squarer and offset adder give `p`, whose top bit the two shifters use. -/
theorem iterStepOfTheBlock : Obligations.IterStepOfTheBlock := by
  unfold Obligations.IterStepOfTheBlock
  intro s hph hrst hrun _ p hp
  have hm : BitVec.ofNat 64 (renormalise (paramsOf s.opr).w p) =
      if p.testBit (2 * (paramsOf s.opr).w - 1) then BitVec.ofNat 64 (p / 2 ^ (paramsOf s.opr).w)
        else BitVec.ofNat 64 (p / 2 ^ ((paramsOf s.opr).w - 1)) := by
    rw [renormalise, overflowBit, apply_ite (BitVec.ofNat 64), Nat.shiftRight_eq_div_pow,
      Nat.shiftRight_eq_div_pow]
  rw [step_core_phase_fine (by simp [hph]) (by simp [hph]) hrst hrun, State.coreStep_of_iter hph,
    State.iter, State.iterated_eq_of_product hp, hm, insertBit_ofNat]
  rfl

/-- Settles O40: the three results, one case for each operation; in `DONE` further core steps do nothing. -/
theorem finStepOfTheBlock : Obligations.FinStepOfTheBlock := by
  unfold Obligations.FinStepOfTheBlock
  intro s hph hrst hopr
  have hres : s.assembled =
        if s.opr = 0b00#2 then (s.y.setWidth 16).setWidth 32
        else if s.opr = 0b01#2 then s.y
        else if s.neg = 1#1 then (-(s.y.setWidth 16)).signExtend 32
        else (s.y.setWidth 16).signExtend 32 := by
    have hlow : s.y.extractLsb' 0 16 = s.y.setWidth 16 :=
      (BitVec.setWidth_eq_extractLsb' (by decide)).symm
    rcases opSelect_cases hopr with h | h | h <;> rw [State.assembled, h]
    · exact congrArg (BitVec.setWidth 32) hlow
    · rfl
    · rw [← hlow]
      exact apply_ite (BitVec.signExtend 32) _ _ _
  rw [step_core_phase (by simp [hph]) (by simp [hph]) hrst, State.coreStep_of_fin hph,
    State.coreSteps_of_rest (.inr rfl), State.fin, hres]
  rfl

/-- Settles O41: the host records the response of the command in flight. -/
theorem takeDeliversTheResponse : Obligations.TakeDeliversTheResponse := by
  unfold Obligations.TakeDeliversTheResponse
  intro s c hph hrst hready hflight
  rw [step_takes hph hrst hready, State.take, State.recorded_of_inFlight hflight]
  rfl

end Sys2Proof.Machine
end

section
/-! O34: the phase after every number of core steps (40_sequencer.md R61). -/

namespace Sys2Proof.Machine

/-- The place of a phase in the order in which an operation passes through them (40_sequencer.md R54). -/
def Phase.place : Phase → Nat
  | .idle => 0
  | .scan => 1
  | .norm => 2
  | .iter => 3
  | .fin => 4
  | .done => 5

theorem Phase.place_injective : Function.Injective Phase.place := by
  intro a b
  cases a <;> cases b <;> simp [Phase.place]

/-- The phases a core step leads between (40_sequencer.md R56 to R59). -/
theorem State.coreStep_ph_cases (s : State) :
    (s.ph = .scan ∧ (s.coreStep.ph = .scan ∨ s.coreStep.ph = .norm)) ∨
      (s.ph = .norm ∧ s.coreStep.ph = .iter) ∨
      (s.ph = .iter ∧ (s.coreStep.ph = .iter ∨ s.coreStep.ph = .fin)) ∨
      (s.ph = .fin ∧ s.coreStep.ph = .done) ∨
      ((s.ph = .idle ∨ s.ph = .done) ∧ s.coreStep.ph = s.ph) := by
  rcases s.coreStep_cases with ⟨hph, hs⟩ | ⟨hph, hs⟩ | ⟨hph, hs⟩ | ⟨hph, hs⟩ | ⟨hph, hs⟩ <;> rw [hs]
  · exact .inl ⟨hph, (ite_eq_or_eq _ _ _).symm⟩
  · exact .inr (.inl ⟨hph, rfl⟩)
  · exact .inr (.inr (.inl ⟨hph, (ite_eq_or_eq _ _ _).symm⟩))
  · exact .inr (.inr (.inr (.inl ⟨hph, rfl⟩)))
  · exact .inr (.inr (.inr (.inr ⟨hph, rfl⟩)))

/-- The core never goes back to an earlier phase. -/
theorem State.coreStep_place (s : State) : s.ph.place ≤ s.coreStep.ph.place := by
  rcases s.coreStep_ph_cases with ⟨h, h' | h'⟩ | ⟨h, h'⟩ | ⟨h, h' | h'⟩ | ⟨h, h'⟩ | ⟨-, h'⟩
  case inr.inr.inr.inr => rw [h']
  all_goals simp [h, h', Phase.place]

theorem State.coreSteps_place {m n : Nat} (hle : m ≤ n) (s : State) :
    (State.coreSteps m s).ph.place ≤ (State.coreSteps n s).ph.place := by
  induction n, hle using Nat.le_induction with
  | base => exact le_rfl
  | succ n _ ih =>
    rw [State.coreSteps_add n 1]
    exact ih.trans (State.coreStep_place _)

/-- A phase met twice is the phase throughout. -/
theorem State.coreSteps_ph_between {a n b : Nat} {s : State} {p : Phase}
    (ha : (State.coreSteps a s).ph = p) (hb : (State.coreSteps b s).ph = p) (han : a ≤ n) (hnb : n ≤ b) :
    (State.coreSteps n s).ph = p := by
  have hlo := State.coreSteps_place han s
  have hhi := State.coreSteps_place hnb s
  rw [ha] at hlo
  rw [hb] at hhi
  exact Phase.place_injective (Nat.le_antisymm hhi hlo)

/-- `NORM` is reached from `SCAN` only, and `FIN` from `ITER` only. -/
theorem State.ph_of_coreStep_ph {s : State} :
    (s.coreStep.ph = .norm → s.ph = .scan) ∧ (s.coreStep.ph = .fin → s.ph = .iter) := by
  rcases s.coreStep_ph_cases with ⟨h, h' | h'⟩ | ⟨h, h'⟩ | ⟨h, h' | h'⟩ | ⟨h, h'⟩ | ⟨h | h, h'⟩ <;>
    simp [h', h]

section
variable {op : BitVec 2} {mag : BitVec 32} (hop : op ≠ 0b11#2) (hmag : mag.toNat < 2 ^ (paramsOf op).w)
  (s : State) (neg : BitVec 1)
include hop hmag

/-- The phase after `n` core steps of an operation: the run is known at the end of the scan and at the end
of the iterations, and in between the phase cannot change. -/
theorem State.coreSteps_issue_ph (n : Nat) :
    (State.coreSteps n (s.issue op mag neg)).ph =
      if n < (paramsOf op).s then .scan
      else if n = (paramsOf op).s then .norm
      else if n ≤ (paramsOf op).s + (paramsOf op).f then .iter
      else if n = (paramsOf op).s + (paramsOf op).f + 1 then .fin
      else .done := by
  obtain ⟨-, hs⟩ := paramsOf_half_eq_two_pow hop
  obtain ⟨-, -, hf, -⟩ := paramsOf_sizes hop
  have hscan := State.coreSteps_issue_scan hop hmag s neg
  have hnorm : (State.coreSteps (paramsOf op).s (s.issue op mag neg)).ph = .norm := by
    rw [hscan]
    rfl
  have hfirst : (State.coreSteps ((paramsOf op).s + 1) (s.issue op mag neg)).ph = .iter := by
    rw [State.coreSteps_add, hscan]
    rfl
  have hfin : (State.coreSteps ((paramsOf op).s + (paramsOf op).f + 1) (s.issue op mag neg)).ph = .fin := by
    rw [Nat.add_assoc, Nat.add_comm (paramsOf op).f, State.coreSteps_add, hscan,
      State.coreSteps_scanned hop hmag]
    rfl
  have hdone :
      (State.coreSteps ((paramsOf op).s + 1 + (paramsOf op).f + 1) (s.issue op mag neg)).ph = .done := by
    rw [State.coreSteps_issue hop hmag]
    rfl
  split_ifs with h1 h2 h3 h4
  · refine State.coreSteps_ph_between (a := 0) (b := (paramsOf op).s - 1) rfl ?_ (by omega) (by omega)
    refine State.ph_of_coreStep_ph.1 ?_
    rw [← Nat.sub_add_cancel hs, State.coreSteps_add] at hnorm
    exact hnorm
  · rw [h2, hnorm]
  · refine State.coreSteps_ph_between hfirst ?_ (by omega) h3
    rw [State.coreSteps_add] at hfin
    exact State.ph_of_coreStep_ph.2 hfin
  · rw [h4, hfin]
  · rw [State.coreSteps_of_le (by omega) hdone, hdone]

end

/-- Settles O34: the three operations run as `coreSteps_issue_ph` says; the reserved command is in `DONE` at
once. -/
theorem stepCountsDependOnOpOnly : Obligations.StepCountsDependOnOpOnly := by
  unfold Obligations.StepCountsDependOnOpOnly
  refine ⟨fun i s hi n => ?_, fun _ => rfl, fun _ _ _ => ⟨rfl, rfl, rfl⟩, rfl⟩
  rw [State.issued_eq_issue hi]
  exact State.coreSteps_issue_ph (Instr.opSelect_ne hi) (Instr.magnitude_lt hi) s i.sign n

end Sys2Proof.Machine
end

section
/-! O28 to O30 and O36: `exec` of a command on an idle block, run to `DONE` and stopped after its `ISSUE`
(40_sequencer.md R55, R61, R64). -/

namespace Sys2Proof.Machine

/-- The sign of a two's-complement operand (45_log2_i32.md R103). -/
theorem signI32_eq_one_iff (v : BitVec 32) : signI32 v = 1#1 ↔ v.toInt < 0 := by
  rw [signI32, ← BitVec.toNat_inj, BitVec.extractLsb'_toNat, BitVec.toInt_neg_iff,
    Nat.shiftRight_eq_div_pow]
  change _ = 1 ↔ _
  omega

/-- Its magnitude, `2^31` for `-2^31` (45_log2_i32.md R103, R104). -/
theorem magnitudeI32_toNat (v : BitVec 32) : (magnitudeI32 v).toNat = v.toInt.natAbs := by
  have hlt := v.isLt
  simp only [magnitudeI32, signI32_eq_one_iff, apply_ite BitVec.toNat, BitVec.toNat_neg,
    BitVec.toInt_eq_toNat_cond]
  split_ifs <;> omega

/-- The status `ISSUE` latches, written out (60_exceptions.md R112). -/
theorem code_ite_zeroInput {P : Prop} [Decidable P] :
    (if P then Condition.zeroInput else .ok).code = if P then 1#2 else 0#2 :=
  apply_ite Condition.code _ _ _

/-- An operation on an idle block with no core step before the host's next edge (40_sequencer.md R55). -/
theorem exec_issues {i : Instr} {s : State} (hi : i ≠ .reserved) (hidle : s.ph = .idle)
    (hrun : s.edge.coreRun = 0) :
    exec i s = .next { s with
      opr := i.opSelect
      neg := i.sign
      x := i.magnitude
      v := i.magnitude
      y := 0#32
      h := BitVec.ofNat 5 ((paramsOf i.opSelect).w / 2)
      st := i.condition.code
      ph := .scan } := by
  rw [exec_idle hidle, hrun, State.coreSteps_zero, State.issued_eq_issue hi,
    ← Instr.conditionOf_magnitude hi]
  rfl

/-- An operation on an idle block with enough core steps before the host's next edge (40_sequencer.md R61,
R64). -/
theorem exec_completes {i : Instr} {s : State} (hi : i ≠ .reserved) (hidle : s.ph = .idle)
    (hrun : i.coreStepCount ≤ s.edge.coreRun) :
    exec i s = .next { s with
      ph := .done
      opr := i.opSelect
      neg := i.sign
      x := i.magnitude
      v := BitVec.ofNat 32 (scanLoop (paramsOf i.opSelect).s (i.magnitude.toNat, 0)).1
      h := 0#5
      y := BitVec.ofNat 32 (log2Core (paramsOf i.opSelect) i.magnitude.toNat)
      m := BitVec.ofNat 64 (kernel (paramsOf i.opSelect) i.magnitude.toNat).1
      cnt := BitVec.ofNat 5 (paramsOf i.opSelect).f
      st := i.condition.code
      res := i.result } := by
  rw [exec_idle hidle, State.coreSteps_of_le hrun (s.issued_completes i).1, State.coreSteps_issued hi,
    State.fin, State.assembled_iteratedToEnd hi, ← Instr.conditionOf_magnitude hi]
  rfl

/-- Settles O36: `ISSUE` of each operation with its parameters put in. -/
theorem issueWritesItsRegisters : Obligations.IssueWritesItsRegisters := by
  unfold Obligations.IssueWritesItsRegisters
  intro s hidle hrun
  refine ⟨fun u => ?_, fun u => ?_, fun v => ?_, ?_⟩
  · rw [exec_issues (i := .log2U16 u) nofun hidle hrun, Instr.condition, code_ite_zeroInput,
      Instr.opSelect, paramsOf_u16]
    rfl
  · rw [exec_issues (i := .log2U32 u) nofun hidle hrun, Instr.condition, code_ite_zeroInput,
      Instr.opSelect, paramsOf_u32]
    rfl
  · rw [exec_issues (i := .log2I32 v) nofun hidle hrun, Instr.condition, code_ite_zeroInput,
      Instr.opSelect, paramsOf_i32]
    rfl
  · rw [exec_idle hidle, hrun]
    rfl

/-- Settles O28: the run of an operation, on a magnitude that is the zero-extended operand. -/
theorem log2U16Completes : Obligations.Log2U16Completes := by
  unfold Obligations.Log2U16Completes
  intro u s hidle hrun
  have hmag : (Instr.log2U16 u).magnitude.toNat = u.toNat := BitVec.toNat_setWidth_of_le (by decide)
  rw [exec_completes (i := .log2U16 u) nofun hidle hrun, hmag, Instr.condition, code_ite_zeroInput,
    Instr.opSelect, paramsOf_u16]
  rfl

/-- Settles O29: the run of an operation, on a magnitude that is the operand. -/
theorem log2U32Completes : Obligations.Log2U32Completes := by
  unfold Obligations.Log2U32Completes
  intro u s hidle hrun
  rw [exec_completes (i := .log2U32 u) nofun hidle hrun, Instr.condition, code_ite_zeroInput,
    Instr.opSelect, paramsOf_u32]
  rfl

/-- Settles O30: the run of an operation, on the absolute value, negated at the end for a negative
operand. -/
theorem log2I32Completes : Obligations.Log2I32Completes := by
  unfold Obligations.Log2I32Completes
  intro v s hidle hrun
  rw [exec_completes (i := .log2I32 v) nofun hidle hrun, Instr.condition, code_ite_zeroInput,
    Instr.opSelect, paramsOf_i32, Instr.result, Instr.magnitude, closedI32, magnitudeI32_toNat,
    magnitudeI32]
  simp only [signI32_eq_one_iff]
  rfl

end Sys2Proof.Machine
end

section
/-! O6 to O8: the scan steps as masked tests, the detector as the floor of the logarithm, and the scan of
zero (41_hsb_detector.md R69, R71, R72). -/

namespace Sys2Proof.Machine

/-- The mask of a scan step, the ones at positions `h` to `2h - 1`, cuts out the tested field where it
stands (R69). -/
theorem and_windowMask (h v : Nat) : v &&& (2 ^ h - 1) <<< h = (v >>> h % 2 ^ h) <<< h := by
  refine Nat.eq_of_testBit_eq fun i => ?_
  rw [Nat.testBit_and, Nat.testBit_shiftLeft, Nat.testBit_shiftLeft, Nat.testBit_two_pow_sub_one,
    Nat.testBit_mod_two_pow, Nat.testBit_shiftRight]
  by_cases hi : h ≤ i
  · simp [hi, Bool.and_comm]
  · simp [hi]

theorem and_windowMask_ne_zero_iff (h v : Nat) :
    v &&& (2 ^ h - 1) <<< h ≠ 0 ↔ scanHit h v = true := by
  rw [and_windowMask, Ne, Nat.shiftLeft_eq_zero_iff, scanHit, decide_eq_true_iff]

theorem scanStep_eq_maskedScan (h : Nat) (vy : Nat × Nat) :
    scanStep h vy = maskedScan ((2 ^ h - 1) <<< h) h vy :=
  if_congr (and_windowMask_ne_zero_iff h vy.1).symm rfl rfl

theorem scanHit_of_lt {h v : Nat} (hv : v < 2 ^ h) : scanHit h v = false := by
  simp [scanHit, Nat.shiftRight_eq_zero v h hv]

/-- A `V` that fits the half window passes the first step of a scan unchanged. -/
theorem scanLoop_succ_of_lt {n v y : Nat} (hv : v < 2 ^ 2 ^ n) :
    scanLoop (n + 1) (v, y) = scanLoop n (v, y) := by
  rw [scanLoop_succ, scanStep_miss (scanHit_of_lt hv)]

/-- Settles O6: the masks of the table are the ones at positions `h` to `2h - 1`, for any `V`. -/
theorem scanStepsTestTheMasks : Obligations.ScanStepsTestTheMasks := by
  unfold Obligations.ScanStepsTestTheMasks
  refine ⟨fun v y _ => ?_, fun v y hv => scanLoop_succ_of_lt (n := 4) hv⟩
  exact ⟨scanStep_eq_maskedScan 16 _, scanStep_eq_maskedScan 8 _, scanStep_eq_maskedScan 4 _,
    scanStep_eq_maskedScan 2 _, scanStep_eq_maskedScan 1 _⟩

/-- Settles O7: every scan step keeps `Y + log2 V`. -/
theorem detectorIsFloorLog2 : Obligations.DetectorIsFloorLog2 := by
  unfold Obligations.DetectorIsFloorLog2
  exact fun s x hpos hx => ⟨hsb_eq_log2 hpos hx, two_pow_hsb_le hpos hx, lt_two_pow_hsb_succ hpos hx⟩

theorem hsb_zero (s : Nat) : hsb s 0 = 0 := by
  rw [hsb, scanLoop_zero_left]

theorem hsb_one (s : Nat) : hsb s 1 = 0 :=
  hsb_eq_log2 Nat.one_pos (Nat.one_lt_two_pow (Nat.two_pow_pos s).ne')

theorem State.issue_x (s : State) (op : BitVec 2) (mag : BitVec 32) (neg : BitVec 1) :
    (s.issue op mag neg).x = mag := rfl

theorem State.issue_st (s : State) (op : BitVec 2) (mag : BitVec 32) (neg : BitVec 1) :
    (s.issue op mag neg).st = (conditionOf mag).code := rfl

/-- Settles O8: the scan of 0 never hits, that of 1 ends at its logarithm 0, and `ISSUE` stores the
magnitude and its condition. -/
theorem zeroScansLikeOne : Obligations.ZeroScansLikeOne := by
  unfold Obligations.ZeroScansLikeOne
  refine ⟨fun n => scanLoop_zero_left n 0, fun n => ⟨hsb_zero n, hsb_one n⟩, fun s op neg => ?_⟩
  simp only [State.issue_x, State.issue_st]
  decide

end Sys2Proof.Machine
end

section
/-! O9 to O14 and O16: the mantissa stays normalised, the accumulator collects the tested bits below the
integer part, and the operands whose mantissa squares to itself (42_mantissa_recurrence.md R84 to R90,
95_test_vectors.md section 2.7). -/

namespace Sys2Proof.Machine

/-! Vocabulary: the recurrence as an iteration from the normaliser's output. -/

theorem log2Core_eq_recurrence (p : Params) (x : Nat) : log2Core p x = (recurrence p x p.f).2 := rfl

theorem recurrence_add (p : Params) (x a b : Nat) :
    recurrence p x (a + b) = iterLoop p.w b (recurrence p x a) := iterLoop_add p.w a b _

theorem recurrence_succ (p : Params) (x n : Nat) :
    recurrence p x (n + 1) = iterStep p.w (recurrence p x n) := recurrence_add p x n 1

/-! The accumulator: iterations only append bits below the ones it has. -/

theorem insertBit_div_two (y : Nat) (b : Bool) : insertBit y b / 2 = y := by
  rw [insertBit_eq, Nat.mul_add_div Nat.two_pos, Nat.div_eq_of_lt b.toNat_lt, Nat.add_zero]

theorem insertBit_testBit_zero (y : Nat) (b : Bool) : (insertBit y b).testBit 0 = b := by
  cases b <;> simp [insertBit_eq, Nat.testBit_zero]

/-- What stood in the accumulator before `n` iterations stands above its lowest `n` bits after them
(R82, R84). -/
theorem iterLoop_snd_div_two_pow (w n : Nat) (my : Nat × Nat) :
    (iterLoop w n my).2 / 2 ^ n = my.2 := by
  induction n generalizing my with
  | zero => simp
  | succ n ih =>
    rw [iterLoop_succ, Nat.pow_succ, ← Nat.div_div_eq_div_mul, ih]
    exact insertBit_div_two my.2 _

theorem recurrence_snd_div_two_pow (p : Params) (x n : Nat) :
    (recurrence p x n).2 / 2 ^ n = hsb p.s x := iterLoop_snd_div_two_pow p.w n _

/-- The bit resolved by iteration `i` of `n` is bit `n - 1 - i` of the accumulator (R84). -/
theorem recurrence_snd_testBit (p : Params) (x : Nat) {n i : Nat} (hi : i < n) :
    (recurrence p x n).2.testBit (n - 1 - i) =
      overflowBit p.w (productPlusOffset p.w (recurrence p x i).1) := by
  obtain ⟨j, rfl⟩ := Nat.exists_eq_add_of_le (Nat.succ_le_of_lt hi)
  have hpos : i + 1 + j - 1 - i = 0 + j := by omega
  rw [hpos, recurrence_add, ← Nat.testBit_div_two_pow, iterLoop_snd_div_two_pow, recurrence_succ]
  exact insertBit_testBit_zero _ _

/-- The integer part takes `S` bits and each iteration appends one (R88). -/
theorem recurrence_snd_lt {op : BitVec 2} {x : Nat} (hop : op ≠ 0b11#2)
    (hx : x < 2 ^ (paramsOf op).w) (n : Nat) :
    (recurrence (paramsOf op) x n).2 < 2 ^ ((paramsOf op).s + n) := by
  obtain ⟨hw, -⟩ := paramsOf_widths hop
  rw [Nat.pow_add, ← Nat.div_lt_iff_lt_mul (Nat.two_pow_pos n), recurrence_snd_div_two_pow, ← hw]
  exact hsb_lt_width hop hx

theorem log2Core_lt {op : BitVec 2} {x : Nat} (hop : op ≠ 0b11#2) (hx : x < 2 ^ (paramsOf op).w) :
    log2Core (paramsOf op) x < 2 ^ ((paramsOf op).s + (paramsOf op).f) := recurrence_snd_lt hop hx _

/-! The mantissas that stand for exactly 1 and 0: the square of `2^(w-1)` renormalises to itself, and so
does that of 0. -/

/-- The offset added to `2^(w-1) * m` is half a unit of the renormalised mantissa, and is lost in the
shift. -/
theorem iterStep_of_square_eq {w m : Nat} (hw : 2 ≤ w) (hm : m * m = 2 ^ (w - 1) * m) (y : Nat) :
    iterStep w (m, y) = (m, y <<< 1) := by
  have hoffset : offset w < 2 ^ (w - 1) := Nat.pow_lt_pow_right (by decide) (by omega)
  have hp : productPlusOffset w m = 2 ^ (w - 1) * m + offset w := by
    rw [productPlusOffset, square, hm]
  have hle : m ≤ 2 ^ (w - 1) := by
    rcases Nat.eq_zero_or_pos m with rfl | hpos
    · exact Nat.zero_le _
    · exact (Nat.eq_of_mul_eq_mul_right hpos hm).le
  have hbit : overflowBit w (productPlusOffset w m) = false := by
    refine Nat.testBit_lt_two_pow ?_
    calc productPlusOffset w m < 2 ^ (w - 1) * (m + 1) := by rw [hp, Nat.mul_succ]; omega
      _ ≤ 2 ^ (w - 1) * 2 ^ w := by
        have := two_pow_eq_double (w := w) (by omega)
        exact Nat.mul_le_mul_left _ (by omega)
      _ = 2 ^ (2 * w - 1) := by rw [← Nat.pow_add]; congr 1; omega
  have hmantissa : renormalise w (productPlusOffset w m) = m := by
    rw [renormalise_eq_div (by omega), hbit, hp, Bool.toNat_false, Nat.add_zero,
      Nat.mul_add_div (Nat.two_pow_pos _), Nat.div_eq_of_lt hoffset, Nat.add_zero]
  simp [iterStep, hmantissa, hbit, insertBit]

theorem iterLoop_of_square_eq {w m : Nat} (hw : 2 ≤ w) (hm : m * m = 2 ^ (w - 1) * m) (n y : Nat) :
    iterLoop w n (m, y) = (m, y <<< n) := by
  induction n generalizing y with
  | zero => rfl
  | succ n ih => rw [iterLoop_succ, iterStep_of_square_eq hw hm, ih, ← Nat.shiftLeft_add, Nat.add_comm]

theorem hsb_two_pow {s k : Nat} (hk : k < 2 ^ s) : hsb s (2 ^ k) = k := by
  rw [hsb_eq_log2 (Nat.two_pow_pos k) (Nat.pow_lt_pow_right (by decide) hk), Nat.log2_two_pow]

theorem normalise_two_pow {w k : Nat} (hk : k < w) : normalise w (2 ^ k) k = 2 ^ (w - 1) := by
  rw [normalise, Nat.shiftLeft_eq, ← Nat.pow_add, Nat.add_sub_cancel' (by omega)]

/-- The normaliser turns `2^k` into the mantissa of exactly 1, which the iterations keep (R89). -/
theorem recurrence_two_pow {op : BitVec 2} {k : Nat} (hop : op ≠ 0b11#2) (hk : k < (paramsOf op).w)
    (n : Nat) : recurrence (paramsOf op) (2 ^ k) n = (2 ^ ((paramsOf op).w - 1), k <<< n) := by
  obtain ⟨hw, hw2, -⟩ := paramsOf_widths hop
  rw [recurrence, hsb_two_pow (hw ▸ hk), normalise_two_pow hk, iterLoop_of_square_eq hw2 rfl]

/-- The zero magnitude is normalised to the mantissa 0, which the iterations keep (R90). -/
theorem recurrence_zero {op : BitVec 2} (hop : op ≠ 0b11#2) (n : Nat) :
    recurrence (paramsOf op) 0 n = (0, 0) := by
  obtain ⟨-, hw2, -⟩ := paramsOf_widths hop
  rw [recurrence, hsb_zero, normalise, Nat.zero_shiftLeft, iterLoop_of_square_eq hw2 (by simp),
    Nat.zero_shiftLeft]

theorem productPlusOffset_zero (w : Nat) : productPlusOffset w 0 = 2 ^ (w - 2) := by
  simp [productPlusOffset, square, offset]

theorem productPlusOffset_mono {w a b : Nat} (h : a ≤ b) :
    productPlusOffset w a ≤ productPlusOffset w b :=
  Nat.add_le_add_right (Nat.mul_self_le_mul_self h) _

/-! The obligations. -/

/-- Settles O9: the normaliser gives a normalised mantissa and every iteration keeps it so. -/
theorem mantissaStaysNormalised : Obligations.MantissaStaysNormalised := by
  unfold Obligations.MantissaStaysNormalised
  intro op hop x hpos hx n
  obtain ⟨hw, hw2, -⟩ := paramsOf_widths hop
  exact iterLoop_normalised (by omega) (normalise_hsb_normalised hw hpos hx)

/-- Settles O10: the square leaves room for the offset, and grows with the mantissa. -/
theorem productNeverWraps : Obligations.ProductNeverWraps := by
  unfold Obligations.ProductNeverWraps
  refine ⟨fun w m hw hm => productPlusOffset_lt hw ?_, fun m hm => productPlusOffset_mono hm, by decide⟩
  exact Nat.lt_of_le_pred (Nat.two_pow_pos w) hm

/-- Settles O11: the integer part takes `S` bits, and the iterations append one bit each. -/
theorem accumulatorFits : Obligations.AccumulatorFits := by
  unfold Obligations.AccumulatorFits
  refine ⟨fun op hop x hx => ⟨Nat.le_sub_one_of_lt (hsb_lt_width hop hx), recurrence_snd_lt hop hx,
    recurrence_snd_div_two_pow _ x _⟩, fun x hx => ?_, fun x hx => ?_, fun x hx => ?_⟩
  · exact log2Core_lt (op := 0b00#2) (by decide) hx
  · exact log2Core_lt (op := 0b01#2) (by decide) hx
  · exact Nat.le_of_lt_succ (log2Core_lt (op := 0b10#2) (by decide) hx)

/-- Settles O12: the mantissa of a power of two squares to itself, so no tested bit is set. -/
theorem powersOfTwoAreExact : Obligations.PowersOfTwoAreExact := by
  unfold Obligations.PowersOfTwoAreExact
  intro op hop k hk
  refine ⟨?_, fun n => ?_⟩
  · rw [log2Core_eq_recurrence, recurrence_two_pow hop hk]
  · rw [recurrence_two_pow hop hk]

/-- Settles O13: the zero mantissa squares to itself, and the offset alone is below the tested bit. -/
theorem zeroMagnitudeGivesZero : Obligations.ZeroMagnitudeGivesZero := by
  unfold Obligations.ZeroMagnitudeGivesZero
  intro op hop
  obtain ⟨-, hw2, -⟩ := paramsOf_widths hop
  refine ⟨productPlusOffset_zero _, ?_, recurrence_zero hop, ?_⟩
  · rw [productPlusOffset_zero]
    exact Nat.testBit_two_pow_of_ne (by omega)
  · rw [log2Core_eq_recurrence, recurrence_zero hop]

/-- Settles O14: each iteration appends its tested bit below the earlier ones and the integer part. -/
theorem resultBitsAreTheTestedBits : Obligations.ResultBitsAreTheTestedBits := by
  unfold Obligations.ResultBitsAreTheTestedBits
  intro op hop x hx
  obtain ⟨-, -, -, -, hsf, -⟩ := paramsOf_sizes hop
  refine ⟨recurrence_snd_div_two_pow _ x _, fun i hi => recurrence_snd_testBit _ x hi, ?_⟩
  exact Nat.mod_eq_of_lt ((log2Core_lt hop hx).trans_le (Nat.pow_le_pow_right (by decide) hsf))

/-- Settles O16: LOG2.I32 and LOG2.U32 run the same iterations, and the last 17 of LOG2.U32 only append
bits. -/
theorem signedKernelIsPrefix : Obligations.SignedKernelIsPrefix := by
  unfold Obligations.SignedKernelIsPrefix
  intro x
  have hsplit : recurrence (paramsOf 0b01#2) x (10 + 17) =
      iterLoop 32 17 (recurrence (paramsOf 0b10#2) x 10) := recurrence_add _ x 10 17
  calc log2Core (paramsOf 0b10#2) x
      = (recurrence (paramsOf 0b10#2) x 10).2 := log2Core_eq_recurrence _ x
    _ = (recurrence (paramsOf 0b01#2) x (10 + 17)).2 / 2 ^ 17 := by
        rw [hsplit, iterLoop_snd_div_two_pow]
    _ = log2Core (paramsOf 0b01#2) x >>> 17 := (Nat.shiftRight_eq_div_pow _ 17).symm

end Sys2Proof.Machine
end

section
/-! O15: the kernel never decreases (43_log2_u16.md R94, 44_log2_u32.md R100, 45_log2_i32.md R110). The
iterations keep the order of two pairs (`m`, `Y`) that compares the accumulators first. -/

namespace Sys2Proof.Machine

/-- The order of the pairs (`m`, `Y`) of the recurrence: the accumulators decide, and the mantissas
where the accumulators agree. -/
def PairLE (a b : Nat × Nat) : Prop := a.2 < b.2 ∨ a.2 = b.2 ∧ a.1 ≤ b.1

theorem PairLE.snd_le {a b : Nat × Nat} (h : PairLE a b) : a.2 ≤ b.2 :=
  h.elim Nat.le_of_lt fun heq => heq.1.le

/-- The tested bit is the highest of the product-plus-offset, so it grows with it (R80). -/
theorem overflowBit_mono {w p q : Nat} (hw : 1 ≤ w) (hle : p ≤ q) (hq : q < 2 ^ (2 * w))
    (hp : overflowBit w p = true) : overflowBit w q = true :=
  (overflowBit_iff hw hq).mpr (((overflowBit_iff hw (hle.trans_lt hq)).mp hp).trans hle)

/-- An iteration keeps the order: of two equal accumulators, a set bit against a clear one decides, and
equal bits mean equal shifts. -/
theorem iterStep_pairLE {w : Nat} {a b : Nat × Nat} (hw : 1 ≤ w) (hb : b.1 < 2 ^ w) (h : PairLE a b) :
    PairLE (iterStep w a) (iterStep w b) := by
  rcases h with hlt | ⟨heq, hle⟩
  · refine .inl ?_
    have hbit := (overflowBit w (productPlusOffset w a.1)).toNat_lt
    simp only [iterStep, insertBit_eq]
    omega
  · have hp := productPlusOffset_mono (w := w) hle
    have hbit := overflowBit_mono hw hp (productPlusOffset_lt hw hb)
    simp only [PairLE, iterStep, insertBit_eq, renormalise_eq_div hw, heq]
    cases ha : overflowBit w (productPlusOffset w a.1) with
    | true =>
      rw [hbit ha]
      exact .inr ⟨rfl, Nat.div_le_div_right hp⟩
    | false =>
      cases overflowBit w (productPlusOffset w b.1) with
      | true => exact .inl (Nat.lt_succ_self _)
      | false => exact .inr ⟨rfl, Nat.div_le_div_right hp⟩

theorem iterLoop_pairLE {w : Nat} (n : Nat) {a b : Nat × Nat} (hw : 1 ≤ w) (hb : Normalised w b.1)
    (h : PairLE a b) : PairLE (iterLoop w n a) (iterLoop w n b) := by
  induction n generalizing a b with
  | zero => exact h
  | succ n ih => exact ih (renormalise_normalised hw hb) (iterStep_pairLE hw hb.2 h)

theorem hsb_mono {s a b : Nat} (hle : a ≤ b) (hb : b < 2 ^ 2 ^ s) : hsb s a ≤ hsb s b := by
  rcases Nat.eq_zero_or_pos a with rfl | hpos
  · rw [hsb_zero]
    exact Nat.zero_le _
  · rw [hsb_eq_log2 hpos (hle.trans_lt hb), hsb_eq_log2 (hpos.trans_le hle) hb, Nat.log2_eq_log_two,
      Nat.log2_eq_log_two]
    exact Nat.log_mono_right hle

/-- The iterations start in the order of the magnitudes: with equal integer parts the normaliser shifts
both by the same amount. -/
theorem normalise_pairLE {w s a b : Nat} (hle : a ≤ b) (hb : b < 2 ^ 2 ^ s) :
    PairLE (normalise w a (hsb s a), hsb s a) (normalise w b (hsb s b), hsb s b) := by
  rcases (hsb_mono hle hb).lt_or_eq with hlt | heq
  · exact .inl hlt
  · refine .inr ⟨heq, ?_⟩
    simp only [normalise, heq, Nat.shiftLeft_eq]
    exact Nat.mul_le_mul_right _ hle

/-- Settles O15: the iterations start in the order of the magnitudes and keep it. -/
theorem kernelIsMonotone : Obligations.KernelIsMonotone := by
  unfold Obligations.KernelIsMonotone
  intro op hop a b hle hb
  obtain ⟨hw, hw2, -⟩ := paramsOf_widths hop
  rcases Nat.eq_zero_or_pos b with rfl | hpos
  · rw [Nat.le_zero.mp hle]
  · exact (iterLoop_pairLE _ (by omega) (normalise_hsb_normalised hw hpos hb)
      (normalise_pairLE hle (hw ▸ hb))).snd_le

end Sys2Proof.Machine
end

section
/-! O17: the written-out forms are the generic algorithm at their constants (43_log2_u16.md R91, R93,
44_log2_u32.md R97, R99, 45_log2_i32.md R102, R109). -/

namespace Sys2Proof.Machine

/-- The written-out loop body at the constants of width `w` is the iteration (R83). -/
theorem writtenIter_eq_iterStep (w : Nat) : writtenIter (offset w) (2 * w - 1) w (w - 1) = iterStep w := by
  funext my
  have hp : my.1 * my.1 + offset w = productPlusOffset w my.1 := rfl
  rw [writtenIter, hp]
  cases hb : (productPlusOffset w my.1).testBit (2 * w - 1) <;>
    simp [iterStep, renormalise, overflowBit, insertBit, hb]

theorem repeatTimes_iterStep (w n : Nat) (my : Nat × Nat) :
    repeatTimes (iterStep w) n my = iterLoop w n my := by
  induction n generalizing my with
  | zero => rfl
  | succ n ih => exact ih _

/-- The last line of the written-out scans differs from a scan step only in `V`. -/
theorem lastMaskedScan_eq (vy : Nat × Nat) : lastMaskedScan vy = (scanStep 1 vy).2 := by
  rw [scanStep_eq_maskedScan, lastMaskedScan, maskedScan, apply_ite Prod.snd]
  rfl

/-- The four lines that both written-out scans end in are the scan steps of `W = 16` (R69). -/
theorem maskedScans_eq_scanLoop (vy : Nat × Nat) :
    lastMaskedScan (maskedScan 0x000C 2 (maskedScan 0x00F0 4 (maskedScan 0xFF00 8 vy))) =
      (scanLoop 4 vy).2 := by
  have h8 : maskedScan 0xFF00 8 vy = scanStep 8 vy := (scanStep_eq_maskedScan 8 vy).symm
  have h4 : ∀ vy, maskedScan 0x00F0 4 vy = scanStep 4 vy := fun vy => (scanStep_eq_maskedScan 4 vy).symm
  have h2 : ∀ vy, maskedScan 0x000C 2 vy = scanStep 2 vy := fun vy => (scanStep_eq_maskedScan 2 vy).symm
  rw [lastMaskedScan_eq, h2, h4, h8]
  rfl

theorem writtenScan16_eq_hsb (u : Nat) : writtenScan16 u = hsb 4 u := maskedScans_eq_scanLoop (u, 0)

theorem writtenScan32_eq_hsb (u : Nat) : writtenScan32 u = hsb 5 u := by
  have h16 : maskedScan 0xFFFF0000 16 (u, 0) = scanStep 16 (u, 0) := (scanStep_eq_maskedScan 16 _).symm
  rw [writtenScan32, maskedScans_eq_scanLoop, h16]
  rfl

/-- A written-out form with its constants taken from the parameters (R93, R99, R109). -/
def writtenForm (p : Params) (scan : Nat → Nat) (u : Nat) : Nat :=
  (repeatTimes (writtenIter (offset p.w) (2 * p.w - 1) p.w (p.w - 1)) p.f
    (u <<< (p.w - 1 - scan u), scan u)).2

theorem writtenForm_eq_log2Core {p : Params} {scan : Nat → Nat} {u : Nat} (h : scan u = hsb p.s u) :
    writtenForm p scan u = log2Core p u := by
  rw [writtenForm, writtenIter_eq_iterStep, repeatTimes_iterStep, h]
  rfl

/-! The three forms as functions: applied to an operand, the kernel would run the loops to compare
them. -/

theorem writtenU16_eq_writtenForm : writtenU16 = writtenForm (paramsOf 0b00#2) writtenScan16 := rfl

theorem writtenU32_eq_writtenForm : writtenU32 = writtenForm (paramsOf 0b01#2) writtenScan32 := rfl

theorem writtenI32_eq_writtenForm : writtenI32 = writtenForm (paramsOf 0b10#2) writtenScan32 := rfl

/-- Settles O17: the forms have the constants of the parameters, their masks are those of the scan steps,
and their loops run the iteration. -/
theorem writtenFormsComputeTheKernel : Obligations.WrittenFormsComputeTheKernel := by
  unfold Obligations.WrittenFormsComputeTheKernel
  rw [writtenU16_eq_writtenForm, writtenU32_eq_writtenForm, writtenI32_eq_writtenForm]
  refine ⟨fun u _ => ?_, fun u _ => ?_, fun u _ => ?_⟩ <;> refine writtenForm_eq_log2Core ?_
  · rw [writtenScan16_eq_hsb, paramsOf_u16]
  · rw [writtenScan32_eq_hsb, paramsOf_u32]
  · rw [writtenScan32_eq_hsb, paramsOf_i32]

end Sys2Proof.Machine
end

section
/-! O19 and O21: the result of the unsigned operations is the kernel's, so it is monotone and carries the
floor of the logarithm on top (43_log2_u16.md R94, R96, 44_log2_u32.md R101). -/

namespace Sys2Proof.Machine

/-- Truncation to 16 bits removes nothing (R88, R91). -/
theorem closedU16_toNat (u : BitVec 16) : (closedU16 u).toNat = log2Core (paramsOf 0b00#2) u.toNat := by
  refine toNat_ofNat_of_lt ?_
  simpa using log2Core_lt (op := 0b00#2) (by decide) (by simpa using u.isLt)

/-- Truncation to 32 bits removes nothing (R88, R97). -/
theorem closedU32_toNat (u : BitVec 32) : (closedU32 u).toNat = log2Core (paramsOf 0b01#2) u.toNat := by
  refine toNat_ofNat_of_lt ?_
  simpa using log2Core_lt (op := 0b01#2) (by decide) (by simpa using u.isLt)

/-- The integer part above the `F` fraction bits is the floor of the logarithm (R71, R88). -/
theorem log2Core_div_two_pow {op : BitVec 2} {x : Nat} (hop : op ≠ 0b11#2) (hpos : 0 < x)
    (hx : x < 2 ^ (paramsOf op).w) : log2Core (paramsOf op) x / 2 ^ (paramsOf op).f = Nat.log2 x := by
  obtain ⟨hw, -⟩ := paramsOf_widths hop
  rw [log2Core_eq_recurrence, recurrence_snd_div_two_pow, hsb_eq_log2 hpos (hw ▸ hx)]

theorem log2_toNat_lt {w : Nat} {u : BitVec w} (hu : u ≠ 0#w) : Nat.log2 u.toNat < w :=
  (Nat.log2_lt (BitVec.toNat_ne_iff_ne.mpr hu)).mpr u.isLt

/-- Where a result keeps the kernel's value, its `S` bits above the fraction are the floor of the
logarithm (R96, R101). -/
theorem integerPart_toNat {op : BitVec 2} {o : Nat} {r : BitVec o} {u : BitVec (paramsOf op).w}
    (hop : op ≠ 0b11#2) (hu : u ≠ 0#_) (hr : r.toNat = log2Core (paramsOf op) u.toNat) :
    (r.extractLsb' (paramsOf op).f (paramsOf op).s).toNat = Nat.log2 u.toNat := by
  obtain ⟨hw, -⟩ := paramsOf_widths hop
  have hpos : 0 < u.toNat := Nat.pos_of_ne_zero (BitVec.toNat_ne_iff_ne.mpr hu)
  rw [BitVec.extractLsb'_toNat, hr, Nat.shiftRight_eq_div_pow, log2Core_div_two_pow hop hpos u.isLt, ← hw,
    Nat.mod_eq_of_lt (log2_toNat_lt hu)]

/-- Settles O19: the kernel is monotone, and the result is its value. -/
theorem u16IsMonotone : Obligations.U16IsMonotone := by
  unfold Obligations.U16IsMonotone
  intro a b hle
  rw [closedU16_toNat, closedU16_toNat]
  exact kernelIsMonotone 0b00#2 (by decide) _ _ hle (by simpa using b.isLt)

/-- Settles O21: the bits above the fraction are the detector's result, which fits their field. -/
theorem integerPartIsFloorLog2 : Obligations.IntegerPartIsFloorLog2 := by
  unfold Obligations.IntegerPartIsFloorLog2
  refine ⟨fun u hu => ⟨?_, Nat.le_of_lt_succ (log2_toNat_lt hu)⟩,
    fun u hu => ⟨?_, Nat.le_of_lt_succ (log2_toNat_lt hu)⟩⟩
  · exact integerPart_toNat (op := 0b00#2) (by decide) hu (closedU16_toNat u)
  · exact integerPart_toNat (op := 0b01#2) (by decide) hu (closedU32_toNat u)

end Sys2Proof.Machine
end

section
/-! O20 and O22 to O25: the result of LOG2.I32 is the kernel of the absolute value with the operand's sign
(45_log2_i32.md R103 to R106, R110). -/

namespace Sys2Proof.Machine

/-- The kernel of a signed operand's absolute value fits 16 bits as a signed number (R88). -/
theorem log2Core_natAbs_lt (v : BitVec 32) : log2Core (paramsOf 0b10#2) v.toInt.natAbs < 2 ^ 15 := by
  rw [← magnitudeI32_toNat]
  exact log2Core_lt (op := 0b10#2) (by decide) (magnitudeI32 v).isLt

theorem closedI32_toInt_of_nonneg {v : BitVec 32} (h : 0 ≤ v.toInt) :
    (closedI32 v).toInt = log2Core (paramsOf 0b10#2) v.toInt.natAbs := by
  have hlt := log2Core_natAbs_lt v
  rw [closedI32, if_neg (mt (signI32_eq_one_iff v).mp h.not_gt), magnitudeI32_toNat, ← BitVec.ofInt_natCast,
    BitVec.toInt_ofInt_eq_self (by decide) (by omega) (by omega)]

/-- The 16-bit negation of R105 is the integer's. -/
theorem closedI32_toInt_of_neg {v : BitVec 32} (h : v.toInt < 0) :
    (closedI32 v).toInt = -log2Core (paramsOf 0b10#2) v.toInt.natAbs := by
  have hlt := log2Core_natAbs_lt v
  rw [closedI32, if_pos ((signI32_eq_one_iff v).mpr h), magnitudeI32_toNat, ← BitVec.ofInt_natCast,
    ← BitVec.ofInt_neg, BitVec.toInt_ofInt_eq_self (by decide) (by omega) (by omega)]

/-- A zero operand has the result 0 (R90, R106). -/
theorem closedI32_zero_toInt : (closedI32 0#32).toInt = 0 := by
  obtain ⟨-, -, -, hcore⟩ := zeroMagnitudeGivesZero 0b10#2 (by decide)
  rw [closedI32_toInt_of_nonneg (by decide)]
  exact congrArg Nat.cast hcore

theorem log2Core_natAbs_mono {a b : BitVec 32} (h : a.toInt.natAbs ≤ b.toInt.natAbs) :
    log2Core (paramsOf 0b10#2) a.toInt.natAbs ≤ log2Core (paramsOf 0b10#2) b.toInt.natAbs := by
  refine kernelIsMonotone 0b10#2 (by decide) _ _ h ?_
  rw [← magnitudeI32_toNat]
  exact (magnitudeI32 b).isLt

/-- Settles O20: the kernel is monotone in the absolute value, which decreases below 0 and increases
above. -/
theorem i32IsMonotone : Obligations.I32IsMonotone := by
  unfold Obligations.I32IsMonotone
  intro a b hle
  rcases lt_or_ge a.toInt 0 with ha | ha <;> rcases lt_or_ge b.toInt 0 with hb | hb
  · have hmono : log2Core _ b.toInt.natAbs ≤ log2Core _ a.toInt.natAbs :=
      log2Core_natAbs_mono (by omega)
    rw [closedI32_toInt_of_neg ha, closedI32_toInt_of_neg hb]
    omega
  · rw [closedI32_toInt_of_neg ha, closedI32_toInt_of_nonneg hb]
    omega
  · omega
  · have hmono : log2Core _ a.toInt.natAbs ≤ log2Core _ b.toInt.natAbs :=
      log2Core_natAbs_mono (by omega)
    rw [closedI32_toInt_of_nonneg ha, closedI32_toInt_of_nonneg hb]
    omega

/-- Settles O22: the two halves of reading a signed operand. -/
theorem signAndMagnitudeOfOperand : Obligations.SignAndMagnitudeOfOperand := by
  unfold Obligations.SignAndMagnitudeOfOperand
  exact fun v => ⟨signI32_eq_one_iff v, magnitudeI32_toNat v⟩

/-- Settles O24: `-v` has the absolute value of `v` and the other sign, and 0 has the result 0. -/
theorem signedResultIsSymmetric : Obligations.SignedResultIsSymmetric := by
  unfold Obligations.SignedResultIsSymmetric
  intro v hv
  have hneg : (-v).toInt = -v.toInt := BitVec.toInt_neg_of_ne_intMin hv
  rcases lt_trichotomy v.toInt 0 with h | h | h
  · rw [closedI32_toInt_of_nonneg (by omega), closedI32_toInt_of_neg h, hneg, Int.natAbs_neg, neg_neg]
  · obtain rfl : v = 0#32 := BitVec.eq_of_toInt_eq h
    rw [BitVec.neg_zero, closedI32_zero_toInt, neg_zero]
  · rw [closedI32_toInt_of_neg (by omega), closedI32_toInt_of_nonneg h.le, hneg, Int.natAbs_neg]

/-! The two ends of the signed range. -/

/-- The magnitude `2^31` is a power of two, so its logarithm is exact (R89, R104). -/
theorem log2Core_two_pow_31 : log2Core (paramsOf 0b10#2) (2 ^ 31) = 31744 :=
  (powersOfTwoAreExact 0b10#2 (by decide) 31 (by decide)).1

theorem closedI32_intMin_toInt : (closedI32 0x80000000#32).toInt = -31744 := by
  rw [closedI32_toInt_of_neg (by decide)]
  exact congrArg (fun y : Nat => -(y : Int)) log2Core_two_pow_31

theorem closedI32_intMax_toInt : (closedI32 0x7FFFFFFF#32).toInt = 31743 := by decide

/-- Settles O25: the result is monotone, so its extremes are those of the operand. -/
theorem signedResultRange : Obligations.SignedResultRange := by
  unfold Obligations.SignedResultRange
  refine ⟨fun v => ⟨?_, ?_⟩, closedI32_intMax_toInt, closedI32_intMin_toInt⟩
  · rw [← closedI32_intMin_toInt]
    exact i32IsMonotone _ v (BitVec.le_toInt v)
  · rw [← closedI32_intMax_toInt]
    exact i32IsMonotone v _ (Int.le_sub_one_of_lt (BitVec.toInt_lt (x := v)))

/-- Settles O23: the absolute value `2^31` has the exact logarithm 31 * 2^10, negated in 16 bits. -/
theorem mostNegativeOperand : Obligations.MostNegativeOperand := by
  unfold Obligations.MostNegativeOperand
  have hclosed : closedI32 0x80000000#32 = 0x8400#16 := BitVec.eq_of_toInt_eq closedI32_intMin_toInt
  refine ⟨by decide, hsb_two_pow (by decide), log2Core_two_pow_31, closedI32_intMin_toInt, ?_, by decide⟩
  rw [Instr.result, hclosed]
  decide

end Sys2Proof.Machine
end

section
/-! O56: every command and every step is answered (60_exceptions.md R119). -/

namespace Sys2Proof.Machine

theorem exec_answers (i : Instr) (s : State) : ∃ t, exec i s = .next t := by
  by_cases hidle : s.ph = .idle
  · exact ⟨_, exec_idle hidle⟩
  · exact ⟨_, exec_busy hidle⟩

theorem step_answers (s : State) : ∃ t, step s = .next t := by
  cases haccepts : s.accepts with
  | true => exact ⟨_, step_accepts haccepts⟩
  | false => exact ⟨_, step_otherwise haccepts⟩

/-- Settles O56: a command runs in `IDLE` and has no effect elsewhere, and an edge accepts a command or
does not. -/
theorem nothingStopsTheBlock : Obligations.NothingStopsTheBlock := by
  unfold Obligations.NothingStopsTheBlock
  exact ⟨exec_answers, step_answers⟩

end Sys2Proof.Machine
end

section
/-! O31 and O32: the two conditions a command can end with besides `OK` (60_exceptions.md R112, R113). -/

namespace Sys2Proof.Machine

/-- The kernel of the zero magnitude is 0 (42_mantissa_recurrence.md R90). -/
theorem log2Core_zero {op : BitVec 2} (hop : op ≠ 0b11#2) : log2Core (paramsOf op) 0 = 0 := by
  obtain ⟨-, -, -, hcore⟩ := zeroMagnitudeGivesZero op hop
  exact hcore

end Sys2Proof.Machine

namespace Sys2Proof

open Machine

theorem Instr.condition_decode_u16 {c : CmdWord} (hop : cmdOp c = 0b00#2) :
    (decode c).condition = .zeroInput ↔ (cmdX c).extractLsb' 0 16 = 0#16 := by
  simp [decode_u16 hop, Instr.condition]

theorem Instr.condition_decode_32 {c : CmdWord} (hop : cmdOp c = 0b01#2 ∨ cmdOp c = 0b10#2) :
    (decode c).condition = .zeroInput ↔ cmdX c = 0#32 := by
  rcases hop with hop | hop
  · simp [decode_u32 hop, Instr.condition]
  · simp [decode_i32 hop, Instr.condition]

/-- A zero operand has the result 0 in every operation (60_exceptions.md R112). -/
theorem Instr.result_of_zeroInput {i : Instr} (h : i.condition = .zeroInput) : i.result = 0#32 := by
  cases i with
  | log2U16 u =>
    obtain rfl : u = 0#16 := by simpa [Instr.condition] using h
    rw [Instr.result, closedU16, BitVec.toNat_zero, log2Core_zero (by decide)]
    rfl
  | log2U32 u =>
    obtain rfl : u = 0#32 := by simpa [Instr.condition] using h
    rw [Instr.result, closedU32, BitVec.toNat_zero, log2Core_zero (by decide)]
  | log2I32 v =>
    obtain rfl : v = 0#32 := by simpa [Instr.condition] using h
    have hclosed : closedI32 0#32 = 0#16 := BitVec.eq_of_toInt_eq closedI32_zero_toInt
    rw [Instr.result, hclosed]
    rfl
  | reserved => nomatch h

end Sys2Proof

namespace Sys2Proof.Machine

/-- Settles O31: `ISSUE` of the reserved command ends in `DONE`, where no core step is enabled. -/
theorem reservedCommandCompletes : Obligations.ReservedCommandCompletes := by
  unfold Obligations.ReservedCommandCompletes
  intro c s hop hidle
  have hdone : s.issueReserved.ph = .done := rfl
  rw [decode_reserved hop, exec_idle hidle, State.issued_reserved, State.coreSteps_of_rest (.inr hdone)]
  rfl

/-- The status of a command, from its `ISSUE` on (40_sequencer.md R55). -/
theorem exec_st {i : Instr} {s t : State} (hidle : s.ph = .idle) (hexec : exec i s = .next t) :
    t.st = i.condition.code := by
  obtain ⟨-, -, -, -, -, -, -, hst, -⟩ := commandFrame i s t hidle hexec
  exact hst

/-- An operation on a zero operand, run to its end (60_exceptions.md R112). -/
theorem exec_completes_zeroInput {i : Instr} {s : State} (hzero : i.condition = .zeroInput)
    (hidle : s.ph = .idle) (hrun : i.coreStepCount ≤ s.edge.coreRun) :
    ∃ t, exec i s = .next t ∧ t.ph = .done ∧ t.st = 1#2 ∧ t.res = 0#32 := by
  have hi : i ≠ .reserved := by
    rintro rfl
    nomatch hzero
  exact ⟨_, exec_completes hi hidle hrun, rfl, (Condition.code_eq_one_iff _).mpr hzero,
    Instr.result_of_zeroInput hzero⟩

/-- Settles O32: `ST` holds the code of the command's condition, which is `ZERO_INPUT` exactly for a zero
operand, and the kernel of 0 is 0. -/
theorem zeroOperandIsReported : Obligations.ZeroOperandIsReported := by
  unfold Obligations.ZeroOperandIsReported
  refine ⟨fun c s t hidle hexec => ?_, fun c s hidle hrun hzero => ?_⟩
  · rw [exec_st hidle hexec, Condition.code_eq_one_iff]
    exact ⟨Instr.condition_decode_u16, Instr.condition_decode_32⟩
  · refine exec_completes_zeroInput ?_ hidle hrun
    rcases hzero with ⟨hop, hx⟩ | ⟨hop, hx⟩
    · exact (Instr.condition_decode_u16 hop).mpr hx
    · exact (Instr.condition_decode_32 hop).mpr hx

end Sys2Proof.Machine
end

section
/-! O43: `RESET` drops the operation in flight (70_reset_and_hazards.md R127, R128). -/

namespace Sys2Proof.Machine

/-- Settles O43: `RESET` wins over every other step at its edge, clears the phase and the command in flight,
and writes none of the host's record, so the command it drops is never answered. -/
theorem resetAbandonsTheOperation : Obligations.ResetAbandonsTheOperation := by
  unfold Obligations.ResetAbandonsTheOperation
  intro s hrst
  refine ⟨s.resetStep.advance, step_resets hrst, State.resetStep_ph s, State.resetStep_inFlight s, ?_⟩
  simp only [State.advance_answered, State.advance_issues, State.advance_takes, State.advance_host,
    State.resetStep_answered, State.resetStep_issues, State.resetStep_takes, State.resetStep_host, and_self]

end Sys2Proof.Machine
end

section
/-! O27: the listed responses (95_test_vectors.md sections 2.5 to 2.8). -/

namespace Sys2Proof

open Machine

/-- Every zero operand is answered alike: status 1 and result 0 (60_exceptions.md R112). -/
theorem Instr.response_of_zeroInput {i : Instr} (h : i.condition = .zeroInput) :
    i.response = 0x100000000#34 := by
  rw [Instr.response, h, Instr.result_of_zeroInput h]
  rfl

/-- Every reserved word is answered alike, with status 2 and result 0, whatever its operand field holds
(60_exceptions.md R113). -/
theorem Instr.response_decode_reserved {c : CmdWord} (hop : cmdOp c = 0b11#2) :
    (decode c).response = 0x200000000#34 := by
  rw [decode_reserved hop]
  rfl

end Sys2Proof

namespace Sys2Proof.Machine

/-- Settles O27: the zero operand (LOG2.U16 ignores `x[31:16]`) and the reserved word
have the responses of their conditions; those of the five other words, which end with `OK`, are
evaluated. -/
theorem listedResponses : Obligations.ListedResponses := by
  unfold Obligations.ListedResponses
  refine ⟨by decide, by decide, ?zeroOperand, by decide, by decide, by decide, ?reserved⟩
  case zeroOperand =>
    exact Instr.response_of_zeroInput ((Instr.condition_decode_u16 (by decide)).mpr (by decide))
  case reserved => exact Instr.response_decode_reserved (by decide)

end Sys2Proof.Machine
end
